-- ==== Sys2Proof/Word.lean ====
section
/-! DEFINITION. The word types of the block (10_state.md R26..R37) and their plainest arithmetic. -/

namespace Sys2Proof

/-- A byte: bits 7 (most significant) down to 0 (00_scope.md R13). -/
abbrev Byte := BitVec 8

/-- A 16-bit position, length or count register (00_scope.md R11). -/
abbrev Word := BitVec 16

/-- A GCR group: 40 bits, the earliest bit of the stream in bit 39 (40_gcr_codec.md R100). -/
abbrev Group := BitVec 40

/-- `XOR(L)`: bitwise exclusive-or of all bytes of a list, 0 for the empty list (00_scope.md R15). -/
def xorBytes (l : List Byte) : Byte := l.foldl (· ^^^ ·) 0

end Sys2Proof
end

