-- ==== Sys2Proof/Config.lean ====
section
/-! DEFINITION. What an implementation fixes (10_state.md R36, 00_scope.md R9, R12) and the free values of the model.
The values of the parameters are in Machine/Params.lean. -/

namespace Sys2Proof

/-- The SectorErrorCodes, by name (00_scope.md R18, 30_encoding.md R90). -/
inductive SectorError where
  | ok
  | headerNotFound
  | syncNotFound
  | dataNotFound
  | badDataChecksum
  | badGcrCode
  | badHeaderChecksum
  | idMismatch
deriving DecidableEq, Repr

/-- The content of one plain byte of a header block (30_encoding.md R88). -/
inductive HeaderField where
  | headerId
  | checksum
  | sector
  | track
  | idSecond
  | idFirst
  | offFirst
  | offSecond
deriving DecidableEq, Repr

/-- The copy-protection schemes of the Alignment Selector, in the order they are tried (44_neighbour_units.md R213). -/
inductive ProtKind where
  | vmax
  | vmaxCinemaware
  | pirateSlayer
  | rapidLok
deriving DecidableEq, Repr

/-- The parameters of the block: fixed when the model is instantiated, changed by no command (10_state.md R36). -/
structure Config where
  /-- `GCR_ENC`: the 5-bit code of each nibble, nibble 0 first (30_encoding.md R86). -/
  gcrEnc : List (BitVec 5)
  /-- `HDR_ID`: the first plain byte of a header block (30_encoding.md R88). -/
  hdrId : Byte
  /-- The order of the 8 plain header bytes (30_encoding.md R88). -/
  hdrLayout : List HeaderField
  /-- `OFF_BYTE`: the filler bytes that end a header (30_encoding.md R88). -/
  offByte : Byte
  /-- Plain bytes 258 and 259 of a data block (30_encoding.md R89). -/
  dataTail : Byte × Byte
  /-- `SYNC_LEN` (30_encoding.md R93). -/
  syncLen : Nat
  /-- `HDR_GAP_LEN` (30_encoding.md R93). -/
  hdrGapLen : Nat
  /-- `GAP_BYTE` (30_encoding.md R93). -/
  gapByte : Byte
  /-- `OFP`, the 256 bytes of the Original Format Pattern (00_scope.md R9). -/
  ofp : List Byte
  /-- The number of each SectorErrorCode (30_encoding.md R90). -/
  errNumber : SectorError → Byte
  /-- `BM_NO_SYNC` (30_encoding.md R91). -/
  bmNoSync : Byte
  /-- `BM_FF_TRACK` (30_encoding.md R91). -/
  bmFfTrack : Byte
  /-- `HAS_U5`: the optional unit U5 is present (00_scope.md R12). -/
  hasU5 : Bool
  /-- `PROT_MATCH`: the protection matchers, each absent or a function from the doubled cycle and its single length to
  an offset (44_neighbour_units.md R213). -/
  protMatch : ProtKind → Option (List Byte → Nat → Option Int)

/-- FREE VALUE: the number that the n-th unspecified host read returns (93_implementation_defined.md I3, I4, I5).
It has no body, so nothing can be proved of it; State.drawn supplies n. Log entry 4. -/
opaque Config.freeRead : Nat → Word

end Sys2Proof
end

