-- ==== Sys2Proof/Machine/Params.lean ====
section
/-! DEFINITION. The parameter values: the constants the document states (00_scope.md R8) and the default of every
parameter it does not (00_scope.md R9, R12; log entries 1 and 9). -/

namespace Sys2Proof.Machine

/-- `TB_CAP` (00_scope.md R8). -/
abbrev tbCap : Nat := 8192

/-- `WB_CAP` (00_scope.md R8). -/
abbrev wbCap : Nat := 16384

/-- `PAYLOAD_LEN`, the capacity of SB (00_scope.md R8). -/
abbrev payloadLen : Nat := 256

/-- `HDR_GCR_LEN` (00_scope.md R8). -/
abbrev hdrGcrLen : Nat := 10

/-- GCR bytes of a data block, 65 groups (00_scope.md R8); the `data_block_len` of 44_neighbour_units.md R214. -/
abbrev dataGcrLen : Nat := 325

/-- `DATA_ID` (00_scope.md R8). -/
abbrev dataId : Byte := 0x07

/-- `HDR_MARK` (00_scope.md R8). -/
abbrev hdrMark : Byte := 0x52

/-- `SYNC_BYTE` (00_scope.md R8). -/
abbrev syncByte : Byte := 0xFF

/-- `SENTINEL` (00_scope.md R8). -/
abbrev sentinel : Byte := 0xFF

/-- `SYNC_MIN_BITS` (00_scope.md R8). -/
abbrev syncMinBits : Nat := 10

/-- `FF_TOL` (00_scope.md R8). -/
abbrev ffTol : Nat := 3

/-- `SIG_GAP_DIFF` (00_scope.md R8). -/
abbrev sigGapDiff : Nat := 0x20

/-- The default number of each SectorErrorCode (30_encoding.md R90). -/
def defaultErrNumber : SectorError → Byte
  | .ok => 0x01
  | .headerNotFound => 0x02
  | .syncNotFound => 0x03
  | .dataNotFound => 0x04
  | .badDataChecksum => 0x05
  | .badGcrCode => 0x06
  | .badHeaderChecksum => 0x09
  | .idMismatch => 0x0B

/-- The parameters of the machine: the defaults of 00_scope.md R9 and R12, and no protection matcher
(44_neighbour_units.md R213). UNVERIFIED (93_implementation_defined.md K1..K7, K10: from general knowledge, not in source); log entries 1, 9. -/
def params : Config where
  gcrEnc := [0x0A, 0x0B, 0x12, 0x13, 0x0E, 0x0F, 0x16, 0x17, 0x09, 0x19, 0x1A, 0x1B, 0x0D, 0x1D, 0x1E, 0x15]
  hdrId := 0x08
  hdrLayout := [.headerId, .checksum, .sector, .track, .idSecond, .idFirst, .offFirst, .offSecond]
  offByte := 0x0F
  dataTail := (0x00, 0x00)
  syncLen := 5
  hdrGapLen := 9
  gapByte := 0x55
  ofp := 0x4B :: List.replicate 255 0x01
  errNumber := defaultErrNumber
  bmNoSync := 0x40
  bmFfTrack := 0x80
  hasU5 := true
  protMatch := fun _ => none

end Sys2Proof.Machine
end

