-- ==== Sys2Proof/Machine/State.lean ====
section
/-! DEFINITION. The state of the block (10_state.md R21..R37), the host's moves (70_reset_and_hazards.md R268), the
reasons a step can stop, and the reset state (70_reset_and_hazards.md R261). -/

namespace Sys2Proof.Machine

/-- The bytes of one buffer that hold a value, addresses strictly rising; an unlisted address holds no value
(20_memory.md R72). -/
abbrev Memory := List Host.Cell

/-- The canonical form of a buffer of capacity `cap`: addresses strictly rising and below the capacity. -/
abbrev Memory.wf (cap : Nat) (m : Memory) : Prop :=
  m.Pairwise (fun x y => x.1 < y.1) ∧ ∀ x ∈ m, x.1 < cap

/-- The byte buffers (10_state.md R22, R23, R24). -/
inductive Buf where
  | tb
  | wb
  | sb
deriving DecidableEq, Repr

/-- The four address spaces (20_memory.md R60). -/
inductive Space where
  | reg
  | buf (b : Buf)
deriving DecidableEq, Repr

/-- The value of a host write: a number, or the number the host's latest read returned (30_encoding.md R85, `COPY`;
log entry 3). -/
inductive HostValue where
  | imm (v : Nat)
  | lastRead
deriving DecidableEq, Repr

/-- One move of the host (70_reset_and_hazards.md R268). -/
inductive HostMove where
  /-- `HostRead(space, a)` (20_memory.md R61). -/
  | read (sp : Space) (a : Nat)
  /-- `HostWrite(space, a, v)` (20_memory.md R61); a write to REG index 0x30 starts a command (30_encoding.md R83). -/
  | write (sp : Space) (a : Nat) (v : HostValue)
  /-- The platform's reset signal (70_reset_and_hazards.md R260). -/
  | reset
deriving DecidableEq, Repr

/-- One item per density zone; `none` holds no value (10_state.md R33). -/
structure Zones where
  z0 : Option Word
  z1 : Option Word
  z2 : Option Word
  z3 : Option Word
deriving DecidableEq, Repr

/-- The state: the register file of 10_state.md R37, the three buffers, and the model's own record of the host
(log entries 2, 3, 4). -/
structure State where
  -- operand registers (10_state.md R26)
  pos : Word
  endPos : Word
  len : Word
  cycs : Word
  cycl : Word
  track : Byte
  sector : Byte
  id0 : Byte
  id1 : Byte
  inj : Byte
  zflags : Byte
  target : Word
  runbyte : Byte
  minrun : Byte
  bufsel : BitVec 1
  -- quad and quint registers (10_state.md R27)
  p0 : Byte
  p1 : Byte
  p2 : Byte
  p3 : Byte
  g0 : Byte
  g1 : Byte
  g2 : Byte
  g3 : Byte
  g4 : Byte
  -- result registers (10_state.md R28)
  res : Word
  valid : BitVec 3
  err : Byte
  strat : BitVec 2
  outlen : Word
  padbits : Word
  tag : Byte
  -- command, status and fault registers (10_state.md R29, R31, R32)
  cmd : Byte
  status : Byte
  faultc : Byte
  -- configuration registers (10_state.md R33, R34); `none` holds no value, log entry 6
  capmin : Zones
  cap : Zones
  capmax : Zones
  allow : Option Word
  gaplen : Byte
  fixgcr : BitVec 3
  alignovr : Byte
  -- buffers (10_state.md R22, R23, R24)
  tb : Memory
  wb : Memory
  sb : Memory
  -- the model's own: the host's moves still to come, the latest number it read, and the count of unspecified reads
  host : List HostMove
  hostData : Word
  drawn : Nat
deriving DecidableEq, Repr

/-- Reasons the MACHINE stops with a fault: none exists. Every contract violation the spec names enters the sticky
fault state of 60_exceptions.md R241, which is a next state (log entry 7), so nobody raises a fault of this type; safe. -/
inductive Fault where
deriving DecidableEq, Repr

/-- Reasons an instruction is refused. -/
inductive Refusal where
  /-- Raised by exec's arm for a command that has no meaning yet; safe (the model stops where the block goes on). -/
  | notModelled (mnemonic : String)
deriving DecidableEq, Repr

/-- The state right after reset (70_reset_and_hazards.md R261, 10_state.md R37). The host has no move to make and has
read nothing (log entries 2, 3, 4). -/
def State.reset : State where
  pos := 0
  endPos := 0
  len := 0
  cycs := 0
  cycl := 0
  track := 0
  sector := 0
  id0 := 0
  id1 := 0
  inj := 0x01
  zflags := 0
  target := 0
  runbyte := 0xFF
  minrun := 2
  bufsel := 0
  p0 := 0
  p1 := 0
  p2 := 0
  p3 := 0
  g0 := 0
  g1 := 0
  g2 := 0
  g3 := 0
  g4 := 0
  res := 0
  valid := 0
  err := 0
  strat := 0
  outlen := 0
  padbits := 0
  tag := 0
  cmd := 0
  status := 0
  faultc := 0
  capmin := ⟨none, none, none, none⟩
  cap := ⟨none, none, none, none⟩
  capmax := ⟨none, none, none, none⟩
  allow := none
  gaplen := 7
  fixgcr := 0
  alignovr := 0
  tb := []
  wb := []
  sb := []
  host := []
  hostData := 0
  drawn := 0

end Sys2Proof.Machine
end

