-- ==== Sys2Proof/Machine/Flags.lean ====
section
/-! DEFINITION. STATUS and ZFLAGS (10_state.md R29, R30) and the fault codes (60_exceptions.md R247). -/

namespace Sys2Proof.Machine

/-- The flags of STATUS (10_state.md R29). -/
inductive Flag where
  | done
  | found
  | bad
  | shifted
  | fault
deriving DecidableEq, Repr

/-- The bit of STATUS that holds a flag (10_state.md R29). -/
def flagBit : Flag → Nat
  | .done => 0
  | .found => 1
  | .bad => 2
  | .shifted => 3
  | .fault => 7

/-- Read a flag of a STATUS value. -/
def flagOf (v : Byte) (f : Flag) : Bool := v.getLsbD (flagBit f)

/-- A STATUS value with one flag set to `b` and every other bit as it was. -/
def withFlag (v : Byte) (f : Flag) (b : Bool) : Byte :=
  if b then v ||| (1#8 <<< flagBit f) else v &&& ~~~(1#8 <<< flagBit f)

/-- A flag of the state's STATUS. -/
def State.flag (s : State) (f : Flag) : Bool := flagOf s.status f

/-- The state with one STATUS flag set to `b` (10_state.md R29: no other flag changes). -/
def State.setFlag (s : State) (f : Flag) (b : Bool) : State := { s with status := withFlag s.status f b }

/-- `ZFLAGS[1:0]`, the density zone (10_state.md R30). -/
def State.zone (s : State) : BitVec 2 := s.zflags.extractLsb' 0 2

/-- The fault causes (60_exceptions.md R242 to R246). -/
inductive FaultCode where
  | illCmd
  | range
  | badArg
  | uninit
  | unsup
deriving DecidableEq, Repr

/-- The code of a fault in FAULTC (60_exceptions.md R247). -/
def faultNumber : FaultCode → Byte
  | .illCmd => 0x01
  | .range => 0x02
  | .badArg => 0x03
  | .uninit => 0x04
  | .unsup => 0x05

/-- ZFLAGS after SYNCFLG counted `cnt` near-sync bytes in `len` (41_bitstream_scanner.md R148, R149): the zero test
first, then `cnt ≥ len − FF_TOL` on mathematical integers; no bit is ever cleared. -/
def syncFlags (c : Config) (zflags : Byte) (cnt len : Nat) : Byte :=
  if cnt = 0 then zflags ||| c.bmNoSync
  else if (len : Int) - ffTol ≤ cnt then zflags ||| c.bmFfTrack
  else zflags

end Sys2Proof.Machine
end

