-- ==== Sys2Proof/Machine/Ops.lean ====
section
/-! DEFINITION. The named operations over the buffers (20_memory.md R65, R72), the fault entry (60_exceptions.md R241),
the reset (70_reset_and_hazards.md R261) and the execution of one command's rule (30_encoding.md R83). -/

namespace Sys2Proof.Machine

/-- The byte at address `a`, or `none` where it holds no value (20_memory.md R72). -/
def readByte : Memory → Nat → Option Byte
  | [], _ => none
  | (k, v) :: m, a => if k = a then some v else readByte m a

/-- The `n` bytes from address `a` in ascending order, or `none` where one of them holds no value. -/
def readBytes : Memory → Nat → Nat → Option (List Byte)
  | _, _, 0 => some []
  | [], _, _ + 1 => none
  | (k, v) :: m, a, n + 1 =>
    if k = a then (readBytes m (a + 1) n).map (v :: ·)
    else if k < a then readBytes m a (n + 1)
    else none

/-- The cells that hold the bytes `l` at addresses `a, a + 1, …`. -/
def cellsFrom : Nat → List Byte → Memory
  | _, [] => []
  | a, v :: l => (a, v) :: cellsFrom (a + 1) l

/-- Write the bytes `l` at addresses `a, a + 1, …`; every other byte keeps its state. -/
def writeBytes (m : Memory) (a : Nat) (l : List Byte) : Memory :=
  m.filter (·.1 < a) ++ cellsFrom a l ++ m.filter (a + l.length ≤ ·.1)

/-- The capacity of a buffer (00_scope.md R8, 20_memory.md R60). -/
def bufCap : Buf → Nat
  | .tb => tbCap
  | .wb => wbCap
  | .sb => payloadLen

/-- The contents of a buffer. -/
def State.mem (s : State) : Buf → Memory
  | .tb => s.tb
  | .wb => s.wb
  | .sb => s.sb

/-- The state with the contents of one buffer replaced. -/
def State.setMem (s : State) (b : Buf) (m : Memory) : State :=
  match b with
  | .tb => { s with tb := m }
  | .wb => { s with wb := m }
  | .sb => { s with sb := m }

/-- `MemRead(S, a, n)` (00_scope.md R15, 20_memory.md R65): `FLT_RANGE` where an address is at or past the capacity,
else `FLT_UNINIT` where a byte holds no value, else the list of bytes. -/
def memRead (s : State) (b : Buf) (a n : Nat) : Except FaultCode (List Byte) :=
  if n ≠ 0 ∧ bufCap b < a + n then .error .range
  else match readBytes (s.mem b) a n with
    | some l => .ok l
    | none => .error .uninit

/-- `MemWrite(S, a, n, L)` (00_scope.md R15, 20_memory.md R65): `FLT_RANGE` where an address is at or past the
capacity, else the bytes are stored. -/
def memWrite (s : State) (b : Buf) (a : Nat) (l : List Byte) : Except FaultCode State :=
  if l ≠ [] ∧ bufCap b < a + l.length then .error .range
  else .ok (s.setMem b (writeBytes (s.mem b) a l))

/-- Taking a fault (60_exceptions.md R241): FAULT set, DONE cleared, FAULTC takes the first code since reset. The
command's own writes are discarded because it is applied to the state from before the command's rule. -/
def raiseFault (code : FaultCode) (s : State) : State :=
  { (s.setFlag .done false).setFlag .fault true with
    faultc := if s.faultc = 0 then faultNumber code else s.faultc }

/-- The reset of the block (70_reset_and_hazards.md R260, R261): the one way out of a fault. The host's own record is
not the block's and stays (log entry 10). -/
def resetBlock (s : State) : State :=
  { State.reset with host := s.host, hostData := s.hostData, drawn := s.drawn }

/-- How a command executes once CMD is stored (30_encoding.md R83): a faulted block ignores it (60_exceptions.md R249);
else DONE is cleared, the rule is evaluated, and either the fault is taken with none of the rule's writes or all of
them are applied and DONE is set. -/
def runCommand (rule : State → Except FaultCode State) (s : State) : Host.Outcome State Fault Refusal :=
  if s.flag .fault then .next s
  else
    match rule (s.setFlag .done false) with
    | .error code => .next (raiseFault code s)
    | .ok t => .next (t.setFlag .done true)

end Sys2Proof.Machine
end

