-- ==== Sys2Proof/Machine/Operands.lean ====
section
/-! DEFINITION. Operands: the register file by index (10_state.md R37), the selected buffer (20_memory.md R66), the
cycle window, the bit string of a byte list (00_scope.md R14), and maximal runs. -/

namespace Sys2Proof.Machine

/-- A zone's item. -/
def zoneGet (z : Zones) (i : BitVec 2) : Option Word :=
  match i.toNat with
  | 0 => z.z0
  | 1 => z.z1
  | 2 => z.z2
  | _ => z.z3

/-- Write a zone's item. -/
def zoneSet (z : Zones) (i : BitVec 2) (v : Word) : Zones :=
  match i.toNat with
  | 0 => { z with z0 := some v }
  | 1 => { z with z1 := some v }
  | 2 => { z with z2 := some v }
  | _ => { z with z3 := some v }

/-- The registers by name (10_state.md R37). -/
inductive Reg where
  | pos | endPos | len | cycs | cycl | track | sector | id0 | id1 | inj | zflags
  | target | runbyte | minrun | bufsel
  | p0 | p1 | p2 | p3
  | g0 | g1 | g2 | g3 | g4
  | res | valid | err | strat | outlen | padbits | tag
  | cmd | status | faultc
  | capmin (z : BitVec 2) | cap (z : BitVec 2) | capmax (z : BitVec 2)
  | allow | gaplen | fixgcr | alignovr
deriving DecidableEq, Repr

/-- The register map (10_state.md R37); `none` for a reserved index. -/
def regAt (i : Nat) : Option Reg :=
  match i with
  | 0x00 => some .pos
  | 0x01 => some .endPos
  | 0x02 => some .len
  | 0x03 => some .cycs
  | 0x04 => some .cycl
  | 0x05 => some .track
  | 0x06 => some .sector
  | 0x07 => some .id0
  | 0x08 => some .id1
  | 0x09 => some .inj
  | 0x0A => some .zflags
  | 0x0B => some .target
  | 0x0C => some .runbyte
  | 0x0D => some .minrun
  | 0x0E => some .bufsel
  | 0x10 => some .p0
  | 0x11 => some .p1
  | 0x12 => some .p2
  | 0x13 => some .p3
  | 0x18 => some .g0
  | 0x19 => some .g1
  | 0x1A => some .g2
  | 0x1B => some .g3
  | 0x1C => some .g4
  | 0x20 => some .res
  | 0x21 => some .valid
  | 0x22 => some .err
  | 0x23 => some .strat
  | 0x24 => some .outlen
  | 0x25 => some .padbits
  | 0x26 => some .tag
  | 0x30 => some .cmd
  | 0x31 => some .status
  | 0x32 => some .faultc
  | 0x40 => some (.capmin 0)
  | 0x41 => some (.capmin 1)
  | 0x42 => some (.capmin 2)
  | 0x43 => some (.capmin 3)
  | 0x44 => some (.cap 0)
  | 0x45 => some (.cap 1)
  | 0x46 => some (.cap 2)
  | 0x47 => some (.cap 3)
  | 0x48 => some (.capmax 0)
  | 0x49 => some (.capmax 1)
  | 0x4A => some (.capmax 2)
  | 0x4B => some (.capmax 3)
  | 0x4C => some .allow
  | 0x4D => some .gaplen
  | 0x4E => some .fixgcr
  | 0x4F => some .alignovr
  | _ => none

/-- The index of a register (10_state.md R37). -/
def regIndex : Reg → Nat
  | .pos => 0x00
  | .endPos => 0x01
  | .len => 0x02
  | .cycs => 0x03
  | .cycl => 0x04
  | .track => 0x05
  | .sector => 0x06
  | .id0 => 0x07
  | .id1 => 0x08
  | .inj => 0x09
  | .zflags => 0x0A
  | .target => 0x0B
  | .runbyte => 0x0C
  | .minrun => 0x0D
  | .bufsel => 0x0E
  | .p0 => 0x10
  | .p1 => 0x11
  | .p2 => 0x12
  | .p3 => 0x13
  | .g0 => 0x18
  | .g1 => 0x19
  | .g2 => 0x1A
  | .g3 => 0x1B
  | .g4 => 0x1C
  | .res => 0x20
  | .valid => 0x21
  | .err => 0x22
  | .strat => 0x23
  | .outlen => 0x24
  | .padbits => 0x25
  | .tag => 0x26
  | .cmd => 0x30
  | .status => 0x31
  | .faultc => 0x32
  | .capmin z => 0x40 + z.toNat
  | .cap z => 0x44 + z.toNat
  | .capmax z => 0x48 + z.toNat
  | .allow => 0x4C
  | .gaplen => 0x4D
  | .fixgcr => 0x4E
  | .alignovr => 0x4F

/-- The registers of the optional unit U5 (00_scope.md R12). -/
def regIsU5 : Reg → Bool
  | .target | .runbyte | .minrun | .alignovr | .tag => true
  | _ => false

/-- The value of a register, zero-extended to 16 bits (log entry 11); `none` holds no value (10_state.md R33). Without
U5 its registers read as zero (00_scope.md R12). -/
def readReg (c : Config) (s : State) (r : Reg) : Option Word :=
  if regIsU5 r && !c.hasU5 then some 0
  else match r with
    | .pos => some s.pos
    | .endPos => some s.endPos
    | .len => some s.len
    | .cycs => some s.cycs
    | .cycl => some s.cycl
    | .track => some (s.track.setWidth 16)
    | .sector => some (s.sector.setWidth 16)
    | .id0 => some (s.id0.setWidth 16)
    | .id1 => some (s.id1.setWidth 16)
    | .inj => some (s.inj.setWidth 16)
    | .zflags => some (s.zflags.setWidth 16)
    | .target => some s.target
    | .runbyte => some (s.runbyte.setWidth 16)
    | .minrun => some (s.minrun.setWidth 16)
    | .bufsel => some (s.bufsel.setWidth 16)
    | .p0 => some (s.p0.setWidth 16)
    | .p1 => some (s.p1.setWidth 16)
    | .p2 => some (s.p2.setWidth 16)
    | .p3 => some (s.p3.setWidth 16)
    | .g0 => some (s.g0.setWidth 16)
    | .g1 => some (s.g1.setWidth 16)
    | .g2 => some (s.g2.setWidth 16)
    | .g3 => some (s.g3.setWidth 16)
    | .g4 => some (s.g4.setWidth 16)
    | .res => some s.res
    | .valid => some (s.valid.setWidth 16)
    | .err => some (s.err.setWidth 16)
    | .strat => some (s.strat.setWidth 16)
    | .outlen => some s.outlen
    | .padbits => some s.padbits
    | .tag => some (s.tag.setWidth 16)
    | .cmd => some (s.cmd.setWidth 16)
    | .status => some (s.status.setWidth 16)
    | .faultc => some (s.faultc.setWidth 16)
    | .capmin z => zoneGet s.capmin z
    | .cap z => zoneGet s.cap z
    | .capmax z => zoneGet s.capmax z
    | .allow => s.allow
    | .gaplen => some (s.gaplen.setWidth 16)
    | .fixgcr => some (s.fixgcr.setWidth 16)
    | .alignovr => some (s.alignovr.setWidth 16)

/-- A host write to a register: the low bits of `v` are stored (10_state.md R37). STATUS and FAULTC are read-only
(10_state.md R29, R32). Of a write to CMD this is only the stored value (10_state.md R31): what it starts is
Machine/HostPort.lean's. Without U5 its registers ignore writes (00_scope.md R12). -/
def writeReg (c : Config) (s : State) (r : Reg) (v : Nat) : State :=
  if regIsU5 r && !c.hasU5 then s
  else match r with
    | .pos => { s with pos := BitVec.ofNat 16 v }
    | .endPos => { s with endPos := BitVec.ofNat 16 v }
    | .len => { s with len := BitVec.ofNat 16 v }
    | .cycs => { s with cycs := BitVec.ofNat 16 v }
    | .cycl => { s with cycl := BitVec.ofNat 16 v }
    | .track => { s with track := BitVec.ofNat 8 v }
    | .sector => { s with sector := BitVec.ofNat 8 v }
    | .id0 => { s with id0 := BitVec.ofNat 8 v }
    | .id1 => { s with id1 := BitVec.ofNat 8 v }
    | .inj => { s with inj := BitVec.ofNat 8 v }
    | .zflags => { s with zflags := BitVec.ofNat 8 v }
    | .target => { s with target := BitVec.ofNat 16 v }
    | .runbyte => { s with runbyte := BitVec.ofNat 8 v }
    | .minrun => { s with minrun := BitVec.ofNat 8 v }
    | .bufsel => { s with bufsel := BitVec.ofNat 1 v }
    | .p0 => { s with p0 := BitVec.ofNat 8 v }
    | .p1 => { s with p1 := BitVec.ofNat 8 v }
    | .p2 => { s with p2 := BitVec.ofNat 8 v }
    | .p3 => { s with p3 := BitVec.ofNat 8 v }
    | .g0 => { s with g0 := BitVec.ofNat 8 v }
    | .g1 => { s with g1 := BitVec.ofNat 8 v }
    | .g2 => { s with g2 := BitVec.ofNat 8 v }
    | .g3 => { s with g3 := BitVec.ofNat 8 v }
    | .g4 => { s with g4 := BitVec.ofNat 8 v }
    | .res => { s with res := BitVec.ofNat 16 v }
    | .valid => { s with valid := BitVec.ofNat 3 v }
    | .err => { s with err := BitVec.ofNat 8 v }
    | .strat => { s with strat := BitVec.ofNat 2 v }
    | .outlen => { s with outlen := BitVec.ofNat 16 v }
    | .padbits => { s with padbits := BitVec.ofNat 16 v }
    | .tag => { s with tag := BitVec.ofNat 8 v }
    | .cmd => { s with cmd := BitVec.ofNat 8 v }
    | .status => s
    | .faultc => s
    | .capmin z => { s with capmin := zoneSet s.capmin z (BitVec.ofNat 16 v) }
    | .cap z => { s with cap := zoneSet s.cap z (BitVec.ofNat 16 v) }
    | .capmax z => { s with capmax := zoneSet s.capmax z (BitVec.ofNat 16 v) }
    | .allow => { s with allow := some (BitVec.ofNat 16 v) }
    | .gaplen => { s with gaplen := BitVec.ofNat 8 v }
    | .fixgcr => { s with fixgcr := BitVec.ofNat 3 v }
    | .alignovr => { s with alignovr := BitVec.ofNat 8 v }

/-- The buffer the U2 commands scan (20_memory.md R66). -/
def State.selected (s : State) : Buf := if s.bufsel = 0 then .tb else .wb

/-- The cycle window `TB[CYCS .. CYCS+CYCL−1]`, with the check `CYCS + CYCL > 8192 ⇒ FLT_RANGE` made first
(60_exceptions.md R242). -/
def readWindow (s : State) : Except FaultCode (List Byte) :=
  if tbCap < s.cycs.toNat + s.cycl.toNat then .error .range
  else memRead s .tb s.cycs.toNat s.cycl.toNat

/-- The bits of a byte in stream order, bit 7 first (00_scope.md R14). -/
def byteBits (b : Byte) : List Bool := (List.range 8).map fun k => b.getLsbD (7 - k)

/-- `bit(B, 0), bit(B, 1), …`: the bit string of a byte list (00_scope.md R14). -/
def bitString (l : List Byte) : List Bool := l.flatMap byteBits

/-- The byte whose bits in stream order are the first eight of `l`, zero-filled in its low bits. -/
def byteOfBits (l : List Bool) : Byte :=
  BitVec.ofNat 8 ((List.range 8).foldl (fun acc k => 2 * acc + (if l.getD k false then 1 else 0)) 0)

/-- The first `n` bytes of a bit string. -/
def packBits : Nat → List Bool → List Byte
  | 0, _ => []
  | n + 1, l => byteOfBits (l.take 8) :: packBits n (l.drop 8)

/-- Put one element in front of a list of runs. -/
def pushRun {α : Type} [DecidableEq α] (a : α) : List (α × Nat) → List (α × Nat)
  | [] => [(a, 1)]
  | (b, k) :: r => if a = b then (b, k + 1) :: r else (a, 1) :: (b, k) :: r

/-- The maximal runs of equal elements of a list, left to right, each as its element and its length. -/
def runsOf {α : Type} [DecidableEq α] (l : List α) : List (α × Nat) := l.foldr pushRun []

/-- One run with its place: the element, the index of its first element, the index after its last. -/
structure Span (α : Type) where
  val : α
  start : Nat
  stop : Nat
deriving DecidableEq, Repr

/-- Runs with their places, the first run starting at `i`. -/
def placeRuns {α : Type} : List (α × Nat) → Nat → List (Span α)
  | [], _ => []
  | (a, k) :: r, i => ⟨a, i, i + k⟩ :: placeRuns r (i + k)

/-- The maximal runs of equal elements of a list with their places. -/
def spansOf {α : Type} [DecidableEq α] (l : List α) : List (Span α) := placeRuns (runsOf l) 0

/-- The longest of the spans, the first on ties. -/
def longestSpan {α : Type} (l : List (Span α)) : Option (Span α) :=
  l.foldl (fun best x => match best with
    | none => some x
    | some b => if b.stop - b.start < x.stop - x.start then some x else some b) none

end Sys2Proof.Machine
end

