-- ==== Sys2Proof/Machine/Aligner.lean ====
section
/-! DEFINITION. Unit U4, the Bit Aligner: ISSHIFT, ALIGNBS (43_bit_aligner.md). -/

namespace Sys2Proof.Machine

/-- The sync runs of a bit string in ascending order: maximal runs of at least `SYNC_MIN_BITS` 1 bits, each from its
first bit to the bit after its last (43_bit_aligner.md R190). -/
def syncRuns (x : List Bool) : List (Span Bool) :=
  (spansOf x).filter fun r => r.val && decide (syncMinBits ≤ r.stop - r.start)

/-- `is_track_bitshifted`: some sync run ends neither at the end of the window nor on a byte boundary
(43_bit_aligner.md R192). -/
def bitShifted (x : List Bool) : Bool :=
  (syncRuns x).any fun r => r.stop != x.length && r.stop % 8 != 0

/-- The source modes of the bit-copy primitive (43_bit_aligner.md R193). -/
inductive CopyMode where
  | data
  | zero
  | one
deriving DecidableEq, Repr

/-- The bits one use of BITCOPY emits: `n` of them from source position `sp` on (43_bit_aligner.md R193). The steps in
which they are emitted are `bitCopySteps`; the result does not depend on them. -/
def bitCopy (mode : CopyMode) (src : List Bool) (sp n : Nat) : List Bool :=
  match mode with
  | .data => (src.drop sp).take n
  | .zero => List.replicate n false
  | .one => List.replicate n true

/-- The cursor-advancement rule of BITCOPY: the sizes of its steps from source bit `sp` to target bit `dp` for `n` bits,
each `min(free bits in target byte, remaining bits in source byte, bits requested)` (43_bit_aligner.md R193). Every
step moves at least one bit, so `n` steps are enough; the first argument counts them. -/
def bitCopySteps : Nat → Nat → Nat → Nat → List Nat
  | 0, _, _, _ => []
  | fuel + 1, sp, dp, n =>
    if n = 0 then []
    else
      let k := min (min (8 - dp % 8) (8 - sp % 8)) n
      k :: bitCopySteps fuel (sp + k) (dp + k) (n - k)

/-- `pad_bits` (43_bit_aligner.md R195). -/
def padBits (used dataBits syncBits : Nat) : Nat := (8 - (used + dataBits + syncBits) % 8) % 8

/-- The walk sync to sync of ALIGNBS (43_bit_aligner.md R195): the bits it still emits and the pad bits it still
inserts, with the source cursor at `cur` and `used` target bits emitted. -/
def alignWalk (x : List Bool) : List (Span Bool) → Nat → Nat → List Bool × Nat
  | [], cur, _ => (bitCopy .data x cur (x.length - cur), 0)
  | r :: rs, cur, used =>
    let data := r.start - cur
    let sync := r.stop - r.start
    let pad := padBits used data sync
    let rest := alignWalk x rs r.stop (used + data + pad + sync)
    (bitCopy .data x cur data ++ bitCopy .zero x r.start pad ++ bitCopy .one x r.start sync ++ rest.1, pad + rest.2)

/-- `align_bitshifted_track`: the re-serialised bits and the number of pad bits (43_bit_aligner.md R195). -/
def alignBits (x : List Bool) : List Bool × Nat := alignWalk x (syncRuns x) 0 0

/-- `nbytes = (used + 7) div 8` (43_bit_aligner.md R195). -/
def byteCount (used : Nat) : Nat := (used + 7) / 8

/-- ISSHIFT (43_bit_aligner.md R192). -/
def ruleIsshift (s : State) : Except FaultCode State := do
  let l ← readWindow s
  .ok (s.setFlag .shifted (bitShifted (bitString l)))

/-- ALIGNBS (43_bit_aligner.md R195). -/
def ruleAlignbs (s : State) : Except FaultCode State := do
  let l ← readWindow s
  let r := alignBits (bitString l)
  let n := byteCount r.1.length
  let t ← memWrite s .wb 0 (packBits n r.1)
  .ok { t with outlen := BitVec.ofNat 16 n, padbits := BitVec.ofNat 16 r.2 }

/-- The meaning of ISSHIFT. -/
def execIsshift (s : State) : Host.Outcome State Fault Refusal := runCommand ruleIsshift s

/-- The meaning of ALIGNBS. -/
def execAlignbs (s : State) : Host.Outcome State Fault Refusal := runCommand ruleAlignbs s

end Sys2Proof.Machine
end

