-- ==== Sys2Proof/Machine/Scanner.lean ====
section
/-! DEFINITION. Unit U2, the Bitstream Scanner: FSYNC, FHDR, BADGCR, SYNCFLG (41_bitstream_scanner.md). -/

namespace Sys2Proof.Machine

/-- Consume further 0xFF bytes; `q` is the position of the list's first byte. The result is the position of the first
byte that is not 0xFF (41_bitstream_scanner.md R141). -/
def syncTail : List Byte → Nat → Option Nat
  | [], _ => none
  | b :: r, q => if b = syncByte then syncTail r (q + 1) else some q

/-- The scan of FSYNC over the bytes of its range; `p` is the position of the list's first byte
(41_bitstream_scanner.md R141). -/
def syncScan : List Byte → Nat → Option Nat
  | b0 :: b1 :: r, p =>
    if b0.getLsbD 0 = true ∧ b1 = syncByte then syncTail (b1 :: r) (p + 1) else syncScan (b1 :: r) (p + 1)
  | [_], _ => none
  | [], _ => none

/-- `FSYNC(B, pos, end)` (41_bitstream_scanner.md R141, R142): it reads only `B[pos .. end−1]`. -/
def fsync (B : List Byte) (pos stop : Nat) : Option Nat := syncScan ((B.take stop).drop pos) pos

/-- The loop of FHDR (41_bitstream_scanner.md R144): the next sync followed by the header mark. Every turn moves the
cursor forward, so `stop` turns are enough. -/
def fhdrLoop (B : List Byte) (stop : Nat) : Nat → Nat → Option Nat
  | 0, _ => none
  | fuel + 1, p =>
    match fsync B p stop with
    | none => none
    | some q => if B[q]? = some hdrMark then some (q + 1) else fhdrLoop B stop fuel q

/-- `FHDR(B, pos, end)` (41_bitstream_scanner.md R144). -/
def fhdr (B : List Byte) (pos stop : Nat) : Option Nat := fhdrLoop B stop stop pos

/-- The 10-bit window of BADGCR: the two low bits of the previous byte, then the byte (41_bitstream_scanner.md R146). -/
def gcrWindow (prev cur : Byte) : BitVec 10 := prev.extractLsb' 0 2 ++ cur

/-- A window is bad when it holds three consecutive zero bits, at one of eight positions of a 3-bit mask
(41_bitstream_scanner.md R146). -/
def windowBad (prev cur : Byte) : Bool :=
  (List.range 8).any fun i => (gcrWindow prev cur >>> i) &&& 0b111 == 0

/-- The address of the byte before `pos`, wrapping to the end of the declared length (41_bitstream_scanner.md R146,
20_memory.md R67). -/
def prevPos (len pos : Nat) : Nat := if pos = 0 then len - 1 else pos - 1

/-- `BADGCR(B, len, pos)` on a local byte list (41_bitstream_scanner.md R146). -/
def badGcr (B : List Byte) (len pos : Nat) : Bool :=
  windowBad (B.getD (prevPos len pos) 0) (B.getD pos 0)

/-- `BADGCR(B, n, p)` for every `p` of a byte list of `n` bytes, in order. -/
def badFlags (B : List Byte) : List Bool := List.zipWith windowBad (B.getLastD 0 :: B) B

/-- Near-sync bytes, those whose last seven bits are all 1 (41_bitstream_scanner.md R148). -/
def nearSync (b : Byte) : Bool := b &&& 0x7F == 0x7F

/-- How many near-sync bytes a list holds (41_bitstream_scanner.md R148). -/
def countNearSync (l : List Byte) : Nat := l.countP nearSync

/-- The result convention of a search over `B[POS .. END−1]` (41_bitstream_scanner.md R140): `find` gets the bytes of
the range and answers a position relative to POS. -/
def searchCommand (find : List Byte → Option Nat) (s : State) : Except FaultCode State := do
  if ¬ (s.pos ≤ s.endPos ∧ s.endPos.toNat ≤ bufCap s.selected) then .error .range
  else
    let l ← memRead s s.selected s.pos.toNat (s.endPos.toNat - s.pos.toNat)
    match find l with
    | some q =>
      let at' := BitVec.ofNat 16 (s.pos.toNat + q)
      .ok { s.setFlag .found true with res := at', pos := at' }
    | none => .ok { s.setFlag .found false with res := s.endPos, pos := s.endPos }

/-- FSYNC (41_bitstream_scanner.md R141). -/
def ruleFsync (s : State) : Except FaultCode State := searchCommand (fun l => fsync l 0 l.length) s

/-- FHDR (41_bitstream_scanner.md R144): as FSYNC with FHDR in place of FSYNC. -/
def ruleFhdr (s : State) : Except FaultCode State := searchCommand (fun l => fhdr l 0 l.length) s

/-- BADGCR (41_bitstream_scanner.md R146). -/
def ruleBadgcr (s : State) : Except FaultCode State := do
  if ¬ (1 ≤ s.len.toNat ∧ s.len.toNat ≤ bufCap s.selected ∧ s.pos < s.len) then .error .range
  else
    let prev ← memRead s s.selected (prevPos s.len.toNat s.pos.toNat) 1
    let cur ← memRead s s.selected s.pos.toNat 1
    .ok (s.setFlag .bad (windowBad (prev.headD 0) (cur.headD 0)))

/-- SYNCFLG (41_bitstream_scanner.md R148). -/
def ruleSyncflg (c : Config) (s : State) : Except FaultCode State := do
  if bufCap s.selected < s.len.toNat then .error .range
  else
    let l ← memRead s s.selected 0 s.len.toNat
    .ok { s with zflags := syncFlags c s.zflags (countNearSync l) s.len.toNat }

/-- The meaning of FSYNC. -/
def execFsync (s : State) : Host.Outcome State Fault Refusal := runCommand ruleFsync s

/-- The meaning of FHDR. -/
def execFhdr (s : State) : Host.Outcome State Fault Refusal := runCommand ruleFhdr s

/-- The meaning of BADGCR. -/
def execBadgcr (s : State) : Host.Outcome State Fault Refusal := runCommand ruleBadgcr s

/-- The meaning of SYNCFLG. -/
def execSyncflg (s : State) : Host.Outcome State Fault Refusal := runCommand (ruleSyncflg params) s

end Sys2Proof.Machine
end

