-- ==== Sys2Proof/Machine/Codec.lean ====
section
/-! DEFINITION. Unit U1, the GCR Codec: ENC4, DEC4, ENCSEC, DECSEC (40_gcr_codec.md). -/

namespace Sys2Proof.Machine

/-- `GCR_ENC[n]` (30_encoding.md R86). -/
def gcrCode (c : Config) (n : BitVec 4) : BitVec 5 := c.gcrEnc.getD n.toNat 0

/-- `GCR_DEC[q]`, `none` for INVALID: the nibble whose code is `q` (30_encoding.md R87). -/
def gcrNibble (c : Config) (q : BitVec 5) : Option (BitVec 4) := (c.gcrEnc.idxOf? q).map (BitVec.ofNat 4)

/-- The two codes of a plain byte, high nibble first (40_gcr_codec.md R100). -/
def byteCodes (c : Config) (p : Byte) : BitVec 10 := gcrCode c (p.extractLsb' 4 4) ++ gcrCode c (p.extractLsb' 0 4)

/-- `ENC4` as the 40-bit value V (40_gcr_codec.md R100). -/
def encGroup (c : Config) (p0 p1 p2 p3 : Byte) : Group :=
  byteCodes c p0 ++ byteCodes c p1 ++ byteCodes c p2 ++ byteCodes c p3

/-- `g[k] = V[39−8k : 32−8k]` (40_gcr_codec.md R100). -/
def groupByte (v : Group) (k : Nat) : Byte := v.extractLsb' (32 - 8 * k) 8

/-- The five bytes of a group, the first in stream order first. -/
def groupBytes (v : Group) : List Byte := (List.range 5).map (groupByte v)

/-- Five bytes as the 40-bit value V (40_gcr_codec.md R104). -/
def groupOf (g0 g1 g2 g3 g4 : Byte) : Group := g0 ++ g1 ++ g2 ++ g3 ++ g4

/-- `q[i] = V[39−5i : 35−5i]` (40_gcr_codec.md R104). -/
def groupCode (v : Group) (i : Nat) : BitVec 5 := v.extractLsb' (35 - 5 * i) 5

/-- `hi[j]`: the high-nibble table's output, SENTINEL for an invalid code (40_gcr_codec.md R104). -/
def highHalf (c : Config) (q : BitVec 5) : Byte :=
  match gcrNibble c q with
  | some n => n.setWidth 8 <<< 4
  | none => sentinel

/-- `lo[j]`: the low-nibble table's output, SENTINEL for an invalid code (40_gcr_codec.md R104). -/
def lowHalf (c : Config) (q : BitVec 5) : Byte :=
  match gcrNibble c q with
  | some n => n.setWidth 8
  | none => sentinel

/-- `p[j]`: the two halves OR-ed (40_gcr_codec.md R104). -/
def plainByte (c : Config) (v : Group) (j : Nat) : Byte :=
  highHalf c (groupCode v (2 * j)) ||| lowHalf c (groupCode v (2 * j + 1))

/-- `ok[j]`: both codes of plain byte j are valid (40_gcr_codec.md R104). -/
def plainOk (c : Config) (v : Group) (j : Nat) : Bool :=
  (gcrNibble c (groupCode v (2 * j))).isSome && (gcrNibble c (groupCode v (2 * j + 1))).isSome

/-- `valid`: the least j with not ok[j], or 4 (40_gcr_codec.md R104, R105). -/
def validCount (c : Config) (v : Group) : Nat := ((List.range 4).takeWhile (plainOk c v)).length

/-- The four plain bytes of a group (40_gcr_codec.md R104). -/
def plainBytes (c : Config) (v : Group) : List Byte := (List.range 4).map (plainByte c v)

/-- ENC4 (40_gcr_codec.md R100). -/
def ruleEnc4 (c : Config) (s : State) : Except FaultCode State :=
  let v := encGroup c s.p0 s.p1 s.p2 s.p3
  .ok { s with g0 := groupByte v 0, g1 := groupByte v 1, g2 := groupByte v 2, g3 := groupByte v 3, g4 := groupByte v 4 }

/-- DEC4 (40_gcr_codec.md R104). -/
def ruleDec4 (c : Config) (s : State) : Except FaultCode State :=
  let v := groupOf s.g0 s.g1 s.g2 s.g3 s.g4
  .ok { s with
    p0 := plainByte c v 0, p1 := plainByte c v 1, p2 := plainByte c v 2, p3 := plainByte c v 3,
    valid := BitVec.ofNat 3 (validCount c v) }

/-- `ENC4` over consecutive groups of four plain bytes; a rest shorter than a group is not encoded. -/
def encBytes (c : Config) : List Byte → List Byte
  | p0 :: p1 :: p2 :: p3 :: r => groupBytes (encGroup c p0 p1 p2 p3) ++ encBytes c r
  | _ => []

/-- `DEC4` over consecutive groups of five GCR bytes; a rest shorter than a group is not decoded. -/
def decBytes (c : Config) : List Byte → List Byte
  | g0 :: g1 :: g2 :: g3 :: g4 :: r => plainBytes c (groupOf g0 g1 g2 g3 g4) ++ decBytes c r
  | _ => []

/-- The SectorErrorCodes in the order of 30_encoding.md R90. -/
def allSectorErrors : List SectorError :=
  [.ok, .headerNotFound, .syncNotFound, .dataNotFound, .badDataChecksum, .badGcrCode, .badHeaderChecksum, .idMismatch]

/-- The SectorErrorCode of a number, `none` where the number is none (30_encoding.md R90). -/
def sectorErrorOf (c : Config) (v : Byte) : Option SectorError := allSectorErrors.find? fun e => c.errNumber e == v

/-- `v XOR 0xFF` when the injected error is `e`, else `v` (40_gcr_codec.md R110, R111). -/
def invertIf (inj e : SectorError) (v : Byte) : Byte := if inj = e then v ^^^ 0xFF else v

/-- The plain byte of a header for each of its fields (30_encoding.md R88; 40_gcr_codec.md R110, R111). -/
def headerByte (c : Config) (inj : SectorError) (track sector id0 id1 : Byte) : HeaderField → Byte
  | .headerId => invertIf inj .headerNotFound c.hdrId
  | .checksum => invertIf inj .badHeaderChecksum
      (sector ^^^ track ^^^ invertIf inj .idMismatch id1 ^^^ invertIf inj .idMismatch id0)
  | .sector => sector
  | .track => track
  | .idSecond => invertIf inj .idMismatch id1
  | .idFirst => invertIf inj .idMismatch id0
  | .offFirst => c.offByte
  | .offSecond => c.offByte

/-- The 8 plain bytes H of a header (40_gcr_codec.md R110). -/
def headerPlain (c : Config) (inj : SectorError) (track sector id0 id1 : Byte) : List Byte :=
  c.hdrLayout.map (headerByte c inj track sector id0 id1)

/-- The 260 plain bytes D of a data block (30_encoding.md R89; 40_gcr_codec.md R110). -/
def dataPlain (c : Config) (inj : SectorError) (pay : List Byte) : List Byte :=
  [invertIf inj .dataNotFound dataId] ++ pay
    ++ [invertIf inj .badDataChecksum (xorBytes pay), c.dataTail.1, c.dataTail.2]

/-- The 325 GCR bytes DG of a data block, its second group zeroed to inject BadGcrCode (40_gcr_codec.md R110, R111). -/
def dataGcr (c : Config) (inj : SectorError) (pay : List Byte) : List Byte :=
  let dg := encBytes c (dataPlain c inj pay)
  if inj = .badGcrCode then dg.take 5 ++ List.replicate 5 0x00 ++ dg.drop 10 else dg

/-- The byte of the two sync runs: 0x55 to inject SyncNotFound (40_gcr_codec.md R110, R111). -/
def imageSyncByte (inj : SectorError) : Byte := if inj = .syncNotFound then 0x55 else syncByte

/-- IMG, the sector image (30_encoding.md R93; 40_gcr_codec.md R110). -/
def sectorImage (c : Config) (inj : SectorError) (track sector id0 id1 : Byte) (pay : List Byte) : List Byte :=
  List.replicate c.syncLen (imageSyncByte inj) ++ encBytes c (headerPlain c inj track sector id0 id1)
    ++ List.replicate c.hdrGapLen c.gapByte ++ List.replicate c.syncLen (imageSyncByte inj) ++ dataGcr c inj pay

/-- `SECTOR_IMG_LEN` (30_encoding.md R93): 354 with the default parameters. -/
def sectorImgLen (c : Config) : Nat := 2 * c.syncLen + hdrGcrLen + c.hdrGapLen + dataGcrLen

/-- ENCSEC (40_gcr_codec.md R110). -/
def ruleEncsec (c : Config) (s : State) : Except FaultCode State := do
  if tbCap < s.pos.toNat + sectorImgLen c then .error .range
  else match sectorErrorOf c s.inj with
    | none => .error .badArg
    | some inj =>
      let pay ← memRead s .sb 0 payloadLen
      let t ← memWrite s .tb s.pos.toNat (sectorImage c inj s.track s.sector s.id0 s.id1 pay)
      .ok { t with
        pos := BitVec.ofNat 16 (s.pos.toNat + sectorImgLen c)
        outlen := BitVec.ofNat 16 (sectorImgLen c) }

/-- The field of a decoded header (30_encoding.md R88). -/
def headerGet (c : Config) (h : List Byte) (f : HeaderField) : Byte := h.getD (c.hdrLayout.idxOf f) 0

/-- The 8 plain bytes of the header whose GCR bytes start at `q` (40_gcr_codec.md R122). -/
def headerAt (c : Config) (W : List Byte) (q : Nat) : List Byte := decBytes c ((W.drop q).take hdrGcrLen)

/-- The header match of DECSEC: header ID, sector and track; VALID and checksum play no part (40_gcr_codec.md R122). -/
def headerMatches (c : Config) (track sector : Byte) (h : List Byte) : Bool :=
  headerGet c h .headerId == c.hdrId && headerGet c h .sector == sector && headerGet c h .track == track

/-- The result of the header search of DECSEC (40_gcr_codec.md R122). -/
inductive HeaderSearch where
  | noSync
  | noHeader
  | found (q : Nat)
deriving DecidableEq, Repr

/-- The loop of the header search (40_gcr_codec.md R122): `anySync` says whether a sync was seen before `p`. Every turn
moves the cursor forward, so as many turns as W has bytes are enough. -/
def headerSearchLoop (c : Config) (track sector : Byte) (W : List Byte) : Nat → Bool → Nat → HeaderSearch
  | 0, anySync, _ => if anySync then .noHeader else .noSync
  | fuel + 1, anySync, p =>
    match fsync W p W.length with
    | none => if anySync then .noHeader else .noSync
    | some q =>
      if W.length < q + hdrGcrLen then .noHeader
      else if headerMatches c track sector (headerAt c W q) then .found q
      else headerSearchLoop c track sector W fuel true q

/-- DECSEC step 1, the header search over the doubled cycle W (40_gcr_codec.md R122). -/
def headerSearch (c : Config) (track sector : Byte) (W : List Byte) : HeaderSearch :=
  headerSearchLoop c track sector W W.length false 0

/-- `hck_bad`: the XOR of the four header bytes differs from the stored checksum (40_gcr_codec.md R123). -/
def headerChecksumBad (c : Config) (h : List Byte) : Bool :=
  headerGet c h .sector ^^^ headerGet c h .track ^^^ headerGet c h .idSecond ^^^ headerGet c h .idFirst
    != headerGet c h .checksum

/-- `idm`: the header's disk ID differs from ID0, ID1 (40_gcr_codec.md R123). -/
def headerIdMismatch (c : Config) (id0 id1 : Byte) (h : List Byte) : Bool :=
  headerGet c h .idFirst != id0 || headerGet c h .idSecond != id1

/-- `exists j in 0..k−1 with BADGCR(W, n, q + j)` (40_gcr_codec.md R123, R124). -/
def anyBadGcr (W : List Byte) (q k : Nat) : Bool := (List.range k).any fun j => badGcr W W.length (q + j)

/-- DECSEC step 3, the data block after a header at `q` that passed its checks (40_gcr_codec.md R124): the code and the
payload. -/
def decodeData (c : Config) (W : List Byte) (q : Nat) (idm : Bool) : SectorError × List Byte :=
  let absent := (if idm then SectorError.idMismatch else .dataNotFound, c.ofp)
  match fsync W (q + hdrGcrLen) W.length with
  | none => absent
  | some d =>
    if W.length < d + dataGcrLen then absent
    else
      let D := decBytes c ((W.drop d).take dataGcrLen)
      let pay := (D.drop 1).take payloadLen
      let cand : SectorError :=
        if D.getD 0 0 ≠ dataId then .dataNotFound
        else if xorBytes pay ≠ D.getD 257 0 then .badDataChecksum
        else .ok
      (if anyBadGcr W d dataGcrLen then .badGcrCode else if idm then .idMismatch else cand, pay)

/-- DECSEC steps 1 to 4 on the doubled cycle W: the SectorErrorCode and the payload (40_gcr_codec.md R122 to R125). -/
def decodeSector (c : Config) (track sector id0 id1 : Byte) (W : List Byte) : SectorError × List Byte :=
  match headerSearch c track sector W with
  | .noSync => (.syncNotFound, c.ofp)
  | .noHeader => (.headerNotFound, c.ofp)
  | .found q =>
    let h := headerAt c W q
    if headerChecksumBad c h then (.badHeaderChecksum, c.ofp)
    else if anyBadGcr W q hdrGcrLen then (.badGcrCode, c.ofp)
    else decodeData c W q (headerIdMismatch c id0 id1 h)

/-- DECSEC (40_gcr_codec.md R120 to R125). -/
def ruleDecsec (c : Config) (s : State) : Except FaultCode State := do
  if s.cycl = 0 then .error .range
  else
    let C ← readWindow s
    let W := C ++ C
    let r := decodeSector c s.track s.sector s.id0 s.id1 W
    let t ← memWrite s .wb 0 W
    let u ← memWrite t .sb 0 r.2
    .ok { u with err := c.errNumber r.1 }

/-- The meaning of ENC4. -/
def execEnc4 (s : State) : Host.Outcome State Fault Refusal := runCommand (ruleEnc4 params) s

/-- The meaning of DEC4. -/
def execDec4 (s : State) : Host.Outcome State Fault Refusal := runCommand (ruleDec4 params) s

/-- The meaning of ENCSEC. -/
def execEncsec (s : State) : Host.Outcome State Fault Refusal := runCommand (ruleEncsec params) s

/-- The meaning of DECSEC. -/
def execDecsec (s : State) : Host.Outcome State Fault Refusal := runCommand (ruleDecsec params) s

end Sys2Proof.Machine
end

