-- ==== Sys2Proof/Machine/Cycle.lean ====
section
/-! DEFINITION. Unit U3, the Cycle Detector: CYCDET (42_cycle_detector.md). -/

namespace Sys2Proof.Machine

/-- What the three strategies work on (42_cycle_detector.md R163): the capture TB[0..LEN), G, CAPMIN[z], CAPMAX[z], A. -/
structure CycleInput where
  tb : List Byte
  gap : Nat
  capMin : Nat
  capMax : Nat
  allow : Nat
deriving DecidableEq, Repr

/-- `stop = LEN − G`; where that is negative no position is below it, as below 0 (42_cycle_detector.md R163). -/
def cycleStop (k : CycleInput) : Nat := k.tb.length - k.gap

/-- `lo = CAPMIN[z] − A`, a mathematical integer (42_cycle_detector.md R163, 00_scope.md R17). -/
def cycleLo (k : CycleInput) : Int := (k.capMin : Int) - k.allow

/-- `hi = CAPMAX[z] + A` (42_cycle_detector.md R163). -/
def cycleHi (k : CycleInput) : Nat := k.capMax + k.allow

/-- `win(p) = TB[p .. p+G−1]` (42_cycle_detector.md R163). -/
def cycleWin (k : CycleInput) (p : Nat) : List Byte := (k.tb.drop p).take k.gap

/-- Positions where three equal bytes begin (42_cycle_detector.md R168). -/
def repeatCount : List Byte → Nat
  | a :: b :: c :: r => (if a = b ∧ b = c then 1 else 0) + repeatCount (b :: c :: r)
  | _ => 0

/-- Positions where a pattern a b a b with a ≠ b begins (42_cycle_detector.md R168). -/
def alternateCount : List Byte → Nat
  | a :: b :: c :: d :: r => (if a = c ∧ b = d ∧ a ≠ b then 1 else 0) + alternateCount (b :: c :: d :: r)
  | _ => 0

/-- Two adjacent bytes that look like sector-gap filler (42_cycle_detector.md R168). -/
def gapPair (p : Byte × Byte) : Bool := p == (0x55, 0xAA) || p == (0xAA, 0x55)

/-- `VALIDWIN(w)`, the document's `is_valid_cycle_data` (42_cycle_detector.md R168). -/
def validWin (w : List Byte) : Bool :=
  !w.contains syncByte && !(w.zip w.tail).any gapPair && decide (repeatCount w + alternateCount w ≤ 2)

/-- A mark finder over the capture: from a cursor to the next mark below `stop` (42_cycle_detector.md R164). -/
abbrev MarkFinder := Nat → Option Nat

/-- `VERIFY(F, s, c)` (42_cycle_detector.md R164): the windows at the two cursors agree at every pair of marks. Every
turn moves both cursors forward, so as many turns as the capture has bytes are enough. -/
def verifyMarks (k : CycleInput) (F : MarkFinder) : Nat → Nat → Nat → Bool
  | 0, _, _ => true
  | fuel + 1, p1, p2 =>
    if cycleWin k p1 ≠ cycleWin k p2 then false
    else match F p1, F p2 with
      | some n1, some n2 => verifyMarks k F fuel n1 n2
      | _, _ => true

/-- The repeat walk of MARKS for the candidate start `s`, its cursor at `cc` (42_cycle_detector.md R164): the accepted
repeat, if one is. -/
def repeatWalk (k : CycleInput) (F : MarkFinder) (s : Nat) : Nat → Nat → Option Nat
  | 0, _ => none
  | fuel + 1, cc =>
    if cc < cycleStop k then
      match F cc with
      | none => none
      | some c =>
        if cycleHi k < c - s then none
        else if verifyMarks k F k.tb.length s c && validWin (cycleWin k c) then some c
        else repeatWalk k F s fuel c
    else none

/-- The candidate-start walk of MARKS, its cursor at `sc` (42_cycle_detector.md R164): `Found(s, c − s)`, or `none` for
Fail. -/
def startWalk (k : CycleInput) (F : MarkFinder) : Nat → Nat → Option (Nat × Nat)
  | 0, _ => none
  | fuel + 1, sc =>
    match F sc with
    | none => none
    | some s =>
      match repeatWalk k F s k.tb.length (s + (max (cycleLo k) 0).toNat) with
      | some c => some (s, c - s)
      | none => startWalk k F fuel s

/-- `MARKS(F)` (42_cycle_detector.md R164). -/
def marks (k : CycleInput) (F : MarkFinder) : Option (Nat × Nat) := startWalk k F k.tb.length 0

/-- Strategy 1, header-based (42_cycle_detector.md R165). -/
def strategyHeader (k : CycleInput) : Option (Nat × Nat) := marks k fun p => fhdr k.tb p (cycleStop k)

/-- Strategy 2, sync-based (42_cycle_detector.md R166). -/
def strategySync (k : CycleInput) : Option (Nat × Nat) := marks k fun p => fsync k.tb p (cycleStop k)

/-- The inner loop of RAW (42_cycle_detector.md R167): `n` positions from `p2`, whose bytes are `suffix`, against the
window `w` at p1. -/
def rawInner (gap : Nat) (w : List Byte) : Nat → List Byte → Nat → Option Nat
  | 0, _, _ => none
  | n + 1, suffix, p2 =>
    if w = suffix.take gap ∧ validWin (suffix.take gap) then some p2
    else rawInner gap w n suffix.tail (p2 + 1)

/-- The outer loop of RAW from `p1` (42_cycle_detector.md R167); `first` is below `stop` for fewer turns than the
capture has bytes. -/
def rawOuter (k : CycleInput) : Nat → Nat → Option (Nat × Nat)
  | 0, _ => none
  | fuel + 1, p1 =>
    let first := p1 + k.capMin + k.allow
    if cycleStop k ≤ first then none
    else
      match rawInner k.gap (cycleWin k p1) (min (cycleStop k - 1) (p1 + cycleHi k) + 1 - first) (k.tb.drop first) first with
      | some p2 => some (p1, p2 - p1)
      | none => rawOuter k fuel (p1 + 1)

/-- Strategy 3, raw correlation (42_cycle_detector.md R167). -/
def strategyRaw (k : CycleInput) : Option (Nat × Nat) := rawOuter k k.tb.length 0

/-- `POST(s, l)`: a length at or below CAPMIN[z] is extended by half of CAPMAX[z] − CAPMIN[z], never beyond the capture
(42_cycle_detector.md R171). -/
def cyclePost (k : CycleInput) (r : Nat × Nat) : Nat × Nat :=
  if r.2 ≤ k.capMin then
    let l := r.2 + (k.capMax - k.capMin) / 2
    (r.1, if k.tb.length < r.1 + l then k.tb.length - r.1 else l)
  else r

/-- The stages HDR, SYNC, RAW, FALLBACK and POST (42_cycle_detector.md R161): the cycle and STRAT. -/
def detectCycle (k : CycleInput) : (Nat × Nat) × BitVec 2 :=
  match strategyHeader k with
  | some r => (cyclePost k r, 1)
  | none =>
    match strategySync k with
    | some r => (cyclePost k r, 2)
    | none =>
      match strategyRaw k with
      | some r => (cyclePost k r, 3)
      | none => ((0, k.tb.length), 0)

/-- CYCDET (42_cycle_detector.md R161, R162): the tests of CHECK in their order, then the detector. -/
def ruleCycdet (s : State) : Except FaultCode State := do
  match zoneGet s.capmin s.zone, zoneGet s.capmax s.zone, s.allow with
  | some mn, some mx, some a =>
    if tbCap < s.len.toNat then .error .range
    else if mx < mn then .error .badArg
    else if s.gaplen = 0 then .error .badArg
    else
      let l ← memRead s .tb 0 s.len.toNat
      let r := detectCycle ⟨l, s.gaplen.toNat, mn.toNat, mx.toNat, a.toNat⟩
      .ok { s with cycs := BitVec.ofNat 16 r.1.1, cycl := BitVec.ofNat 16 r.1.2, strat := r.2 }
  | _, _, _ => .error .uninit

/-- The meaning of CYCDET. -/
def execCycdet (s : State) : Host.Outcome State Fault Refusal := runCommand ruleCycdet s

end Sys2Proof.Machine
end

