-- ==== Sys2Proof/Machine/Reducer.lean ====
section
/-! DEFINITION. Unit U5, the Length Reducer: REDRUN, REDGAP, REDUCE (44_neighbour_units.md R220 to R223). -/

namespace Sys2Proof.Machine

/-- One pass of REDRUN over the maximal runs, left to right (44_neighbour_units.md R220): the bytes kept and how many
were stripped in all, `stripped` of them before. -/
def redrunPass (target : Nat) (byte : Byte) (minrun len0 : Nat) : List (Byte × Nat) → Nat → List Byte × Nat
  | [], stripped => ([], stripped)
  | (b, k) :: r, stripped =>
    if b = byte ∧ minrun < k ∧ target < len0 - stripped then
      let rest := redrunPass target byte minrun len0 r (stripped + 1)
      (List.replicate (k - 1) b ++ rest.1, rest.2)
    else
      let rest := redrunPass target byte minrun len0 r stripped
      (List.replicate k b ++ rest.1, rest.2)

/-- One pass of REDGAP (44_neighbour_units.md R221): the bytes kept and how many were stripped in all, `stripped` of them
before. The tests look at the pass's input. -/
def redgapPass (target len0 : Nat) : List Byte → Nat → List Byte × Nat
  | a :: b :: c :: r, stripped =>
    if a ≠ syncByte ∧ b = syncByte ∧ c = syncByte ∧ target < len0 - stripped then
      redgapPass target len0 (b :: c :: r) (stripped + 1)
    else
      let rest := redgapPass target len0 (b :: c :: r) stripped
      (a :: rest.1, rest.2)
  | l, stripped => (l, stripped)

/-- The loop of both reducers (44_neighbour_units.md R220, R221): passes while the length is over the target, until one
strips nothing. Every other pass shortens the buffer, so as many passes as it has bytes are enough. -/
def reduceLoop (target : Nat) (pass : List Byte → List Byte × Nat) : Nat → List Byte → List Byte
  | 0, buf => buf
  | fuel + 1, buf =>
    if target < buf.length then
      let r := pass buf
      if r.2 = 0 then r.1 else reduceLoop target pass fuel r.1
    else buf

/-- `REDRUN(buf, target, byte, minrun)` (44_neighbour_units.md R220). -/
def reduceRuns (buf : List Byte) (target : Nat) (byte : Byte) (minrun : Nat) : List Byte :=
  reduceLoop target (fun b => redrunPass target byte minrun b.length (runsOf b) 0) buf.length buf

/-- `REDGAP(buf, target)` (44_neighbour_units.md R221). -/
def reduceGaps (buf : List Byte) (target : Nat) : List Byte :=
  reduceLoop target (fun b => redgapPass target b.length b 0) buf.length buf

/-- The four steps of REDUCE (44_neighbour_units.md R222). -/
def reduceTrack (buf : List Byte) (target minrun : Nat) : List Byte :=
  (reduceGaps (reduceRuns (reduceRuns buf target 0xFF minrun) target 0x00 minrun) target).take target

/-- A reducer command on `TB[0 .. LEN−1]` (44_neighbour_units.md R220): the reduced bytes go back to TB from 0, their
count to LEN and OUTLEN. -/
def reduceCommand (f : List Byte → List Byte) (s : State) : Except FaultCode State := do
  if tbCap < s.len.toNat then .error .range
  else
    let l ← memRead s .tb 0 s.len.toNat
    let t ← memWrite s .tb 0 (f l)
    .ok { t with len := BitVec.ofNat 16 (f l).length, outlen := BitVec.ofNat 16 (f l).length }

/-- REDRUN (44_neighbour_units.md R220). -/
def ruleRedrun (s : State) : Except FaultCode State :=
  reduceCommand (fun l => reduceRuns l s.target.toNat s.runbyte s.minrun.toNat) s

/-- REDGAP (44_neighbour_units.md R221). -/
def ruleRedgap (s : State) : Except FaultCode State := reduceCommand (fun l => reduceGaps l s.target.toNat) s

/-- REDUCE (44_neighbour_units.md R222). -/
def ruleReduce (s : State) : Except FaultCode State :=
  reduceCommand (fun l => reduceTrack l s.target.toNat s.minrun.toNat) s

/-- The meaning of REDRUN. -/
def execRedrun (s : State) : Host.Outcome State Fault Refusal := runCommand ruleRedrun s

/-- The meaning of REDGAP. -/
def execRedgap (s : State) : Host.Outcome State Fault Refusal := runCommand ruleRedgap s

/-- The meaning of REDUCE. -/
def execReduce (s : State) : Host.Outcome State Fault Refusal := runCommand ruleReduce s

end Sys2Proof.Machine
end

