-- ==== Sys2Proof/Machine/Selector.lean ====
section
/-! DEFINITION. Unit U5, the Alignment Selector: ALIGNSEL (44_neighbour_units.md R210 to R219). -/

namespace Sys2Proof.Machine

/-- The AlignmentTags (30_encoding.md R92). -/
inductive AlignTag where
  | none
  | gap
  | sector0
  | longestSync
  | badGcrRun
  | autoGap
  | signature (k : ProtKind)
deriving DecidableEq, Repr

/-- `index(kind)` (44_neighbour_units.md R213, R214). -/
def protIndex : ProtKind → Nat
  | .vmax => 0
  | .vmaxCinemaware => 1
  | .pirateSlayer => 2
  | .rapidLok => 3

/-- The number of an AlignmentTag in register TAG (30_encoding.md R92). -/
def tagNumber : AlignTag → Byte
  | .none => 0x00
  | .gap => 0x01
  | .sector0 => 0x02
  | .longestSync => 0x03
  | .badGcrRun => 0x04
  | .autoGap => 0x05
  | .signature k => BitVec.ofNat 8 (0x10 + protIndex k)

/-- The overrides of ALIGNOVR (30_encoding.md R92, 44_neighbour_units.md R211). -/
inductive Override where
  | automatic
  | gap
  | sector0
  | longestSync
  | badGcrRun
  | autoGap
  | raw
  | signature (k : ProtKind)
deriving DecidableEq, Repr

/-- The override a value of ALIGNOVR stands for, `none` where the value is in no row of the table (30_encoding.md R92). -/
def overrideOf (v : Byte) : Option Override :=
  match v.toNat with
  | 0x00 => some .automatic
  | 0x01 => some .gap
  | 0x02 => some .sector0
  | 0x03 => some .longestSync
  | 0x04 => some .badGcrRun
  | 0x05 => some .autoGap
  | 0x06 => some .raw
  | 0x10 => some (.signature .vmax)
  | 0x11 => some (.signature .vmaxCinemaware)
  | 0x12 => some (.signature .pirateSlayer)
  | 0x13 => some (.signature .rapidLok)
  | _ => none

/-- The override forces a protection matcher that is absent (44_neighbour_units.md R213). -/
def matcherAbsent (c : Config) : Override → Bool
  | .signature k => (c.protMatch k).isNone
  | _ => false

/-- The least index `rs` with `W[rs .. q−1]` all 0xFF (44_neighbour_units.md R215, R216). -/
def ffRunStart (W : List Byte) (q : Nat) : Nat := q - ((W.take q).reverse.takeWhile (· == syncByte)).length

/-- The better of the best gap so far and the span from `prev` to `a` (44_neighbour_units.md R215): the span and the
rotation point; the first longest wins ties. -/
def betterGap (W : List Byte) (best : Option (Nat × Nat)) (prev a : Nat) : Option (Nat × Nat) :=
  let new := (a - prev, min (prev + dataGcrLen) (max prev (ffRunStart W a)))
  match best with
  | none => some new
  | some b => if b.1 < new.1 then some new else some b

/-- The loop of GAP (44_neighbour_units.md R215): `prev` is the end of the previous sync. Every turn moves the cursor
forward, so as many turns as W has bytes are enough. -/
def gapLoop (W : List Byte) (L : Nat) : Nat → Option (Nat × Nat) → Option Nat → Nat → Option (Nat × Nat)
  | 0, best, _, _ => best
  | fuel + 1, best, prev, p =>
    match fsync W p W.length with
    | none => best
    | some a =>
      let best' := match prev with
        | some q => if q < L then betterGap W best q a else best
        | none => best
      gapLoop W L fuel best' (some a) a

/-- `GAP(W, L)`: the longest inter-sector gap, its span and the rotation point (44_neighbour_units.md R215). -/
def gapSearch (W : List Byte) (L : Nat) : Option (Nat × Nat) := gapLoop W L W.length none none 0

/-- The loop of SECTOR0 (44_neighbour_units.md R216). DESIGN CHOICE for a header layout other than
the default (a parameter): the rule tests P[0] and P[2] of the one group it decodes, the model the fields ID and sector
wherever the layout puts them, and a field put past the fourth plain byte reads as 0 (log entry 16). -/
def sector0Loop (c : Config) (W : List Byte) (L : Nat) : Nat → Nat → Option Nat
  | 0, _ => none
  | fuel + 1, p =>
    match fhdr W p W.length with
    | none => none
    | some h =>
      let q := h - 1
      if L ≤ q then none
      else
        let P := decBytes c ((W.drop q).take 5)
        if q + 5 ≤ W.length ∧ headerGet c P .headerId = c.hdrId ∧ headerGet c P .sector = 0x00 then
          some (ffRunStart W q)
        else sector0Loop c W L fuel h

/-- `SECTOR0(W, L)`: the start of the sync of the first sector-0 header (44_neighbour_units.md R216). -/
def sector0Search (c : Config) (W : List Byte) (L : Nat) : Option Nat := sector0Loop c W L W.length 0

/-- `AUTOGAP(W, L)`: five bytes before the longest run of one repeated byte, at least two long; it may be negative
(44_neighbour_units.md R217). -/
def autoGapSearch (W : List Byte) : Option Int :=
  (longestSpan ((spansOf W).filter fun r => decide (2 ≤ r.stop - r.start))).map fun r => (r.start : Int) - 5

/-- `LONGSYNC`: the start of the longest run of 0xFF (44_neighbour_units.md R218). -/
def longSyncSearch (W : List Byte) : Option Nat :=
  (longestSpan ((spansOf W).filter fun r => r.val == syncByte)).map Span.start

/-- `BADRUN`: the start of the longest run of positions with a bad-GCR window (44_neighbour_units.md R218). DESIGN CHOICE:
of several longest runs the first, as the rule says for LONGSYNC and not for BADRUN (log entry 18). -/
def badRunSearch (W : List Byte) : Option Nat :=
  (longestSpan ((spansOf (badFlags W)).filter fun r => r.val)).map Span.start

/-- The protection kinds in the order they are tried (44_neighbour_units.md R213). -/
def protKinds : List ProtKind := [.vmax, .vmaxCinemaware, .pirateSlayer, .rapidLok]

/-- What one protection matcher finds; an absent one finds nothing (44_neighbour_units.md R213). -/
def protSearch (c : Config) (W : List Byte) (L : Nat) (k : ProtKind) : Option Int := (c.protMatch k).bind fun f => f W L

/-- The first protection signature found, in the order of the kinds (44_neighbour_units.md R213, R214). -/
def firstSignature (c : Config) (W : List Byte) (L : Nat) : Option (AlignTag × Int) :=
  protKinds.findSome? fun k => (protSearch c W L k).map fun o => (.signature k, o)

/-- `SELECT(W, L, 0)`, the automatic order: the first applicable wins (44_neighbour_units.md R214). -/
def selectAutomatic (c : Config) (W : List Byte) (L : Nat) : AlignTag × Int :=
  match firstSignature c W L with
  | some r => r
  | none =>
    let g := gapSearch W L
    match g.filter fun x => decide (dataGcrLen + sigGapDiff < x.1) with
    | some x => (.gap, x.2)
    | none =>
      match sector0Search c W L with
      | some o => (.sector0, o)
      | none =>
        match g with
        | some x => (.gap, x.2)
        | none =>
          match autoGapSearch W with
          | some o => (.autoGap, o)
          | none => (.none, 0)

/-- A forced method: its tag and offset, or the unrotated track tagged None; no falling through
(44_neighbour_units.md R211, R214). -/
def forced (tag : AlignTag) (o : Option Int) : AlignTag × Int :=
  match o with
  | some o => (tag, o)
  | none => (.none, 0)

/-- `SELECT(W, L, ALIGNOVR)` (44_neighbour_units.md R214). -/
def selectAlign (c : Config) (W : List Byte) (L : Nat) : Override → AlignTag × Int
  | .automatic => selectAutomatic c W L
  | .gap => forced .gap ((gapSearch W L).map fun x => (x.2 : Int))
  | .sector0 => forced .sector0 ((sector0Search c W L).map Int.ofNat)
  | .longestSync => forced .longestSync ((longSyncSearch W).map Int.ofNat)
  | .badGcrRun => forced .badGcrRun ((badRunSearch W).map Int.ofNat)
  | .autoGap => forced .autoGap (autoGapSearch W)
  | .raw => (.none, 0)
  | .signature k => forced (.signature k) (protSearch c W L k)

/-- `o mod L`, the offset normalised into `[0, L)` (44_neighbour_units.md R214, 00_scope.md R17). -/
def normalOffset (o : Int) (L : Nat) : Nat := (o % (L : Int)).toNat

/-- ALIGNSEL (44_neighbour_units.md R214). -/
def ruleAlignsel (c : Config) (s : State) : Except FaultCode State := do
  if s.cycl = 0 ∨ tbCap < s.cycs.toNat + s.cycl.toNat then .error .range
  else match overrideOf s.alignovr with
    | none => .error .badArg
    | some v =>
      if matcherAbsent c v then .error .unsup
      else
        let C ← readWindow s
        let L := s.cycl.toNat
        let W := C ++ C
        let r := selectAlign c W L v
        let o := normalOffset r.2 L
        let t ← memWrite s .wb 0 W
        let u ← memWrite t .tb 0 ((W.drop o).take L)
        .ok { u with
          cycs := 0, len := s.cycl, outlen := s.cycl, res := BitVec.ofNat 16 o, tag := tagNumber r.1 }

/-- The meaning of ALIGNSEL. -/
def execAlignsel (s : State) : Host.Outcome State Fault Refusal := runCommand (ruleAlignsel params) s

end Sys2Proof.Machine
end

