-- ==== Sys2Proof/Machine/System.lean ====
section
/-! DEFINITION. The commands of no unit: NOP, SRESET (60_exceptions.md R251). -/

namespace Sys2Proof.Machine

/-- NOP: no register or buffer is read or written (60_exceptions.md R251). -/
def ruleNop (s : State) : Except FaultCode State := .ok s

/-- The meaning of NOP: the dispatch sets DONE. -/
def execNop (s : State) : Host.Outcome State Fault Refusal := runCommand ruleNop s

/-- The meaning of SRESET: the reset, also while FAULT = 1 (60_exceptions.md R251, 30_encoding.md R83). -/
def execSreset (s : State) : Host.Outcome State Fault Refusal := .next (resetBlock s)

end Sys2Proof.Machine
end

