-- ==== Sys2Proof/Syntax.lean ====
section
/-! DEFINITION. The command set GCRB-1: one constructor per row of the opcode map (30_encoding.md R82).
A command has no fields (30_encoding.md R80, R94), so no constructor has an argument. -/

namespace Sys2Proof

/-- The 17 commands (30_encoding.md R82). -/
inductive Instr where
  | nop
  | enc4
  | dec4
  | encsec
  | decsec
  | fsync
  | fhdr
  | badgcr
  | syncflg
  | cycdet
  | isshift
  | alignbs
  | alignsel
  | redrun
  | redgap
  | reduce
  | sreset
deriving DecidableEq, Repr

/-- The commands of the optional unit U5 (00_scope.md R5, R12). -/
def Instr.isU5 : Instr → Bool
  | .alignsel | .redrun | .redgap | .reduce => true
  | .nop | .enc4 | .dec4 | .encsec | .decsec | .fsync | .fhdr | .badgcr | .syncflg | .cycdet | .isshift | .alignbs
  | .sreset => false

end Sys2Proof
end

