-- ==== Sys2Proof/Machine/Dispatch.lean ====
section
/-! DEFINITION. The dispatch: one arm per command, each a direct call of its meaning (30_encoding.md R82, R83). -/

namespace Sys2Proof.Machine

/-- The command `i` on the state `s`, whose CMD already holds the opcode (30_encoding.md R83). -/
def exec (i : Instr) (s : State) : Host.Outcome State Fault Refusal :=
  match i with
  | .nop => Sys2Proof.Machine.execNop s
  | .enc4 => Sys2Proof.Machine.execEnc4 s
  | .dec4 => Sys2Proof.Machine.execDec4 s
  | .encsec => Sys2Proof.Machine.execEncsec s
  | .decsec => Sys2Proof.Machine.execDecsec s
  | .fsync => Sys2Proof.Machine.execFsync s
  | .fhdr => Sys2Proof.Machine.execFhdr s
  | .badgcr => Sys2Proof.Machine.execBadgcr s
  | .syncflg => Sys2Proof.Machine.execSyncflg s
  | .cycdet => Sys2Proof.Machine.execCycdet s
  | .isshift => Sys2Proof.Machine.execIsshift s
  | .alignbs => Sys2Proof.Machine.execAlignbs s
  | .alignsel => Sys2Proof.Machine.execAlignsel s
  | .redrun => Sys2Proof.Machine.execRedrun s
  | .redgap => Sys2Proof.Machine.execRedgap s
  | .reduce => Sys2Proof.Machine.execReduce s
  | .sreset => Sys2Proof.Machine.execSreset s

end Sys2Proof.Machine
end

