-- ==== Sys2Proof/WellFormed.lean ====
section
/-! DEFINITION. Which commands exist under given parameters. A command has no field that could be ill-formed
(30_encoding.md R80, R94); the one check is that the unit it belongs to is present (00_scope.md R12). -/

namespace Sys2Proof

/-- A command is well-formed when its unit is present: a U5 command needs `HAS_U5` (00_scope.md R12). -/
def WellFormed (c : Config) (i : Instr) : Bool := c.hasU5 || !i.isU5

end Sys2Proof
end

