-- ==== Sys2Proof/Decode.lean ====
section
/-! DEFINITION. The command byte (30_encoding.md R80..R84): decoder, encoder, and the host's view of the decoder. -/

namespace Sys2Proof

/-- Why a number written to CMD is no command (30_encoding.md R84). Both reasons raise `FLT_ILLCMD`. -/
inductive DecodeError where
  /-- The number is in no row of the opcode map. -/
  | illegalOpcode
  /-- The number is a U5 opcode and `HAS_U5` is false. -/
  | unitAbsent
deriving DecidableEq, Repr

/-- The opcode of a command (30_encoding.md R82). -/
def encode : Instr → Byte
  | .nop => 0x00
  | .enc4 => 0x01
  | .dec4 => 0x02
  | .encsec => 0x03
  | .decsec => 0x04
  | .fsync => 0x10
  | .fhdr => 0x11
  | .badgcr => 0x12
  | .syncflg => 0x13
  | .cycdet => 0x20
  | .isshift => 0x30
  | .alignbs => 0x31
  | .alignsel => 0x40
  | .redrun => 0x41
  | .redgap => 0x42
  | .reduce => 0x43
  | .sreset => 0xFF

/-- The opcode map read from the opcode side (30_encoding.md R82); `none` for the illegal opcodes of R84. -/
def opcodeMap (op : Byte) : Option Instr :=
  match op.toNat with
  | 0x00 => some .nop
  | 0x01 => some .enc4
  | 0x02 => some .dec4
  | 0x03 => some .encsec
  | 0x04 => some .decsec
  | 0x10 => some .fsync
  | 0x11 => some .fhdr
  | 0x12 => some .badgcr
  | 0x13 => some .syncflg
  | 0x20 => some .cycdet
  | 0x30 => some .isshift
  | 0x31 => some .alignbs
  | 0x40 => some .alignsel
  | 0x41 => some .redrun
  | 0x42 => some .redgap
  | 0x43 => some .reduce
  | 0xFF => some .sreset
  | _ => none

/-- Decode the byte written to CMD under the parameters `c`: total, with a named reason for every rejection
(30_encoding.md R83, R84). -/
def decode (c : Config) (op : Byte) : Except DecodeError Instr :=
  match opcodeMap op with
  | none => .error .illegalOpcode
  | some i => if WellFormed c i then .ok i else .error .unitAbsent

/-- Decode the number written to CMD: it is compared whole, so a number wider than a command byte is no opcode
(30_encoding.md R83). -/
def decodeWrite (c : Config) (n : Nat) : Except DecodeError Instr :=
  if n < 256 then decode c (BitVec.ofNat 8 n) else .error .illegalOpcode

/-- The command that the machine's decoder reads from the first `nbits` bits of `w`: a command is one byte
(30_encoding.md R80), so bits 7..0 are its opcode. -/
def decodeTableWord (nbits w : Nat) : Option Instr :=
  match decode Machine.params (BitVec.ofNat 8 (w % 2 ^ nbits)) with
  | .ok i => some i
  | .error _ => none

end Sys2Proof
end

