-- ==== Sys2Proof/Machine/Parametric.lean ====
section
/-! DEFINITION. The commands of a block instantiated with any parameters (10_state.md R36). At `Machine.params` they are
the meanings of Machine/Dispatch.lean: `execUnder_params` of Laws/Dispatch.lean. -/

namespace Sys2Proof.Machine

/-- The rule that a command evaluates under the parameters `c` (30_encoding.md R83, 10_state.md R36). SRESET's is the
reset; `execUnder` runs it outside the sticky gate. -/
def ruleUnder (c : Config) : Instr → State → Except FaultCode State
  | .nop => ruleNop
  | .enc4 => ruleEnc4 c
  | .dec4 => ruleDec4 c
  | .encsec => ruleEncsec c
  | .decsec => ruleDecsec c
  | .fsync => ruleFsync
  | .fhdr => ruleFhdr
  | .badgcr => ruleBadgcr
  | .syncflg => ruleSyncflg c
  | .cycdet => ruleCycdet
  | .isshift => ruleIsshift
  | .alignbs => ruleAlignbs
  | .alignsel => ruleAlignsel c
  | .redrun => ruleRedrun
  | .redgap => ruleRedgap
  | .reduce => ruleReduce
  | .sreset => fun s => .ok (resetBlock s)

/-- The command `i` on the state `s` of a block with the parameters `c` (30_encoding.md R83, 10_state.md R36). -/
def execUnder (c : Config) (i : Instr) (s : State) : Host.Outcome State Fault Refusal :=
  if i = .sreset then .next (resetBlock s) else runCommand (ruleUnder c i) s

end Sys2Proof.Machine
end

