-- ==== Sys2Proof/Machine/HostPort.lean ====
section
/-! DEFINITION. The host's moves on the block (70_reset_and_hazards.md R268): host reads and writes (20_memory.md R61,
10_state.md R37), the write to CMD that starts a command (30_encoding.md R83), the platform reset. -/

namespace Sys2Proof.Machine

/-- What a host read of `a` in `sp` returns, or `none` where it is unspecified (20_memory.md R61;
93_implementation_defined.md I3, I4, I5). A reserved register index reads as 0 (10_state.md R37). -/
def hostView (c : Config) (s : State) (sp : Space) (a : Nat) : Option Word :=
  match sp with
  | .reg =>
    match regAt a with
    | some r => readReg c s r
    | none => some 0
  | .buf b => if bufCap b ≤ a then none else (readByte (s.mem b) a).map (BitVec.setWidth 16)

/-- The width of the number a read of the space returns (10_state.md R37: every register that can hold no value is 16
bits wide; 20_memory.md R60: a buffer's element is a byte). -/
def freeWidth (sp : Space) (v : Word) : Word :=
  match sp with
  | .reg => v
  | .buf _ => (v.setWidth 8).setWidth 16

/-- `HostRead(sp, a)` (20_memory.md R61): no side effect on the block (20_memory.md R64); the host gets the number, a
free value where it is unspecified (log entry 4). -/
def hostRead (c : Config) (sp : Space) (a : Nat) (s : State) : State :=
  match hostView c s sp a with
  | some v => { s with hostData := v }
  | none => { s with hostData := freeWidth sp (Config.freeRead s.drawn), drawn := s.drawn + 1 }

/-- `HostWrite(sp, a, v)` other than to CMD (20_memory.md R61, 10_state.md R37): a reserved register index ignores it, an
address past a buffer's capacity has no effect, and the low bits of a wider value are stored. -/
def hostStore (c : Config) (sp : Space) (a v : Nat) (s : State) : State :=
  match sp with
  | .reg =>
    match regAt a with
    | some r => writeReg c s r v
    | none => s
  | .buf b => if bufCap b ≤ a then s else s.setMem b (writeBytes (s.mem b) a [BitVec.ofNat 8 v])

/-- The number a host write carries (log entry 3). -/
def hostNumber (s : State) : HostValue → Nat
  | .imm v => v
  | .lastRead => s.hostData.toNat

/-- The host's write of the number `n` to CMD of a block with the parameters `c` (30_encoding.md R83, 10_state.md R36): CMD
takes its low bits; a command of the opcode map is executed; any other number, one above 255 among them, raises
`FLT_ILLCMD`, unless the block is faulted and ignores it (60_exceptions.md R243, R249). -/
def startCommand (c : Config) (n : Nat) (s : State) : Host.Outcome State Fault Refusal :=
  match decodeWrite c n with
  | .ok i => execUnder c i { s with cmd := BitVec.ofNat 8 n }
  | .error _ => runCommand (fun _ => .error .illCmd) { s with cmd := BitVec.ofNat 8 n }

/-- One move of the host (70_reset_and_hazards.md R268). -/
def hostMove (c : Config) (m : HostMove) (s : State) : Host.Outcome State Fault Refusal :=
  match m with
  | .read sp a => .next (hostRead c sp a s)
  | .reset => .next (resetBlock s)
  | .write sp a v =>
    if sp = .reg ∧ a = regIndex .cmd then startCommand c (hostNumber s v) s
    else .next (hostStore c sp a (hostNumber s v) s)

/-- One step of the machine: the host's next move; with none left nothing changes, since the block never starts an
action on its own (10_state.md R20, 60_exceptions.md R252). -/
def nextMove (c : Config) (s : State) : Host.Outcome State Fault Refusal :=
  match s.host with
  | [] => .next s
  | m :: rest => hostMove c m { s with host := rest }

/-- The move that writes the opcode in the low `nbits` bits of `w` to CMD (30_encoding.md R80). -/
def commandMove (nbits w : Nat) : HostMove := .write .reg (regIndex .cmd) (.imm (w % 2 ^ nbits % 256))

end Sys2Proof.Machine
end

