-- ==== Sys2Proof/Machine/Step.lean ====
section
/-! DEFINITION. The step of the machine: one move of the host (30_encoding.md R83, 70_reset_and_hazards.md R268). -/

namespace Sys2Proof.Machine

/-- One step, under the machine's parameters: the command a CMD write starts is `exec` (`execUnder_params` of
Laws/Dispatch.lean). -/
def step (s : State) : Host.Outcome State Fault Refusal := nextMove params s

/-- The state whose next step runs the command in the low `nbits` bits of `w`: the host's next move writes it to CMD
(log entry 2). -/
def State.withFetchWord (s : State) (nbits w : Nat) : State := { s with host := commandMove nbits w :: s.host }

end Sys2Proof.Machine
end

