-- ==== Sys2Proof/Safety.lean ====
section
/-! DEFINITION. What counts as a safe run (70_reset_and_hazards.md R268), the invariant of the machine, and the words the
claims are written in. -/

namespace Sys2Proof.Machine

/-- The invariant of the machine: the buffers are in canonical form within their capacities (20_memory.md R60), the
reserved bits of STATUS read 0 (10_state.md R29), DONE is 0 while FAULT is 1 (10_state.md R29), and FAULTC is 0 exactly
while no fault was taken, else one of the five codes (10_state.md R32, 60_exceptions.md R247). -/
abbrev Inv (s : State) : Prop :=
  Memory.wf tbCap s.tb ∧ Memory.wf wbCap s.wb ∧ Memory.wf payloadLen s.sb
    ∧ s.status &&& 0x70 = 0
    ∧ ¬ (s.flag .fault = true ∧ s.flag .done = true)
    ∧ (s.flag .fault = true ↔ s.faultc ≠ 0)
    ∧ s.faultc.toNat ≤ 5

/-- A finite sequence of host moves applied to a state (70_reset_and_hazards.md R268). -/
def runMoves : List HostMove → State → Host.Outcome State Fault Refusal
  | [], s => .next s
  | m :: ms, s =>
    match hostMove params m s with
    | .next t => runMoves ms t
    | .fault f => .fault f
    | .refused r => .refused r

/-- The number of the last CMD write of a sequence of host moves from the state `s` on, `r` before it. A platform reset is
equivalent to SRESET (70_reset_and_hazards.md R260), so no command stands before it (DEDUCED, log entry 17). -/
def lastCommand : List HostMove → State → Option Nat → Option Nat
  | [], _, r => r
  | m :: ms, s, r =>
    match hostMove params m s with
    | .next t => lastCommand ms t <| match m with
        | .write sp a v => if sp = .reg ∧ a = 0x30 then some (hostNumber s v) else r
        | .read _ _ => r
        | .reset => none
    | .fault _ => r
    | .refused _ => r

/-- A run from the reset state that ends in `t` has completed (70_reset_and_hazards.md R268): FAULT is 0 and, where its last
CMD write was a command other than SRESET, DONE is 1. -/
def Completed (ms : List HostMove) (t : State) : Prop :=
  runMoves ms State.reset = .next t ∧ t.flag .fault = false
    ∧ ∀ op, lastCommand ms State.reset none = some op → op ≠ 0xFF → t.flag .done = true

/-- A run from the reset state that ends in `t` has faulted (70_reset_and_hazards.md R268). -/
def Faulted (ms : List HostMove) (t : State) : Prop :=
  runMoves ms State.reset = .next t ∧ t.flag .fault = true

/-- The state after a fault with the code `n` (60_exceptions.md R241): FAULT set, DONE cleared, FAULTC the first code,
everything else as it was. -/
def faulted (n : Byte) (s : State) : State :=
  { s with status := (s.status &&& 0xFE) ||| 0x80, faultc := if s.faultc = 0 then n else s.faultc }

/-- `q` is the end of a sync in `l`: the bytes before `q`, at least one, are 0xFF after a byte that ends in a 1 bit, and
`l[q]` is not 0xFF (41_bitstream_scanner.md R141). -/
def SyncEnd (l : List Byte) (q : Nat) : Prop :=
  ∃ i, i + 1 < q ∧ q < l.length ∧ (l.getD i 0).getLsbD 0 = true
    ∧ (∀ k, i < k → k < q → l.getD k 0 = 0xFF) ∧ l.getD q 0 ≠ 0xFF

/-- `(a, b)` is a sync run of the bit string `x`: a maximal run of at least ten 1 bits (43_bit_aligner.md R190). -/
def SyncRun (x : List Bool) (a b : Nat) : Prop :=
  a + 10 ≤ b ∧ b ≤ x.length ∧ (∀ k, a ≤ k → k < b → x[k]? = some true)
    ∧ (a = 0 ∨ x[a - 1]? = some false) ∧ (b = x.length ∨ x[b]? = some false)

/-- The contents and the capacity of the buffer BUFSEL selects (20_memory.md R66). -/
def scanned (s : State) : Memory × Nat := if s.bufsel = 0 then (s.tb, 8192) else (s.wb, 16384)

/-- STATUS after a completed command that sets the flag of mask `bit` to `b` (10_state.md R29). -/
def doneWith (v bit : Byte) (b : Bool) : Byte := (if b then v ||| bit else v &&& ~~~bit) ||| 0x01

/-- `m'` is `m` with the bytes `l` stored at `a, a + 1, …`: inside that region a read gives the byte stored, outside it
every byte reads as before (20_memory.md R65). -/
def Stored (m m' : Memory) (a : Nat) (l : List Byte) : Prop :=
  ∀ x, readByte m' x = if a ≤ x ∧ x < a + l.length then l[x - a]? else readByte m x

/-- `v XOR 0xFF` where INJ holds the number `e` (40_gcr_codec.md R110). -/
def flipIf (inj e v : Byte) : Byte := if inj = e then v ^^^ 0xFF else v

/-- The image IMG that ENCSEC writes for the register values given, with the numbers of 40_gcr_codec.md R110. -/
def writtenImage (inj track sector id0 id1 : Byte) (pay : List Byte) : List Byte :=
  let h4 := flipIf inj 0x0B id1
  let h5 := flipIf inj 0x0B id0
  let H := [flipIf inj 0x02 0x08, flipIf inj 0x09 (sector ^^^ track ^^^ h4 ^^^ h5), sector, track, h4, h5, 0x0F, 0x0F]
  let D := [flipIf inj 0x04 0x07] ++ pay ++ [flipIf inj 0x05 (xorBytes pay), 0x00, 0x00]
  let sb := List.replicate 5 (if inj = 0x03 then 0x55 else 0xFF)
  let DG := encBytes params D
  let DG' := if inj = 0x06 then DG.take 5 ++ List.replicate 5 0x00 ++ DG.drop 10 else DG
  sb ++ encBytes params H ++ List.replicate 9 0x55 ++ sb ++ DG'

/-- The numbers of the SectorErrorCodes (30_encoding.md R90). -/
def sectorNumbers : List Byte := [0x01, 0x02, 0x03, 0x04, 0x05, 0x06, 0x09, 0x0B]

/-- The pair `(p1, p2)` is what RAW looks for (42_cycle_detector.md R167). -/
def RawMatch (k : CycleInput) (p1 p2 : Nat) : Prop :=
  p1 + k.capMin + k.allow ≤ p2 ∧ p2 ≤ p1 + cycleHi k ∧ p2 < cycleStop k ∧ cycleWin k p1 = cycleWin k p2
    ∧ validWin (cycleWin k p2) = true

/-- The registers a completed command may write besides STATUS (10_state.md R26, R27, R28, R30); FAULTC is written by a
fault only. SRESET writes every register of the block. -/
def writtenRegs : Instr → List Reg
  | .nop => []
  | .enc4 => [.g0, .g1, .g2, .g3, .g4]
  | .dec4 => [.p0, .p1, .p2, .p3, .valid]
  | .encsec => [.pos, .outlen]
  | .decsec => [.err]
  | .fsync => [.res, .pos]
  | .fhdr => [.res, .pos]
  | .badgcr => []
  | .syncflg => [.zflags]
  | .cycdet => [.cycs, .cycl, .strat]
  | .isshift => []
  | .alignbs => [.outlen, .padbits]
  | .alignsel => [.cycs, .len, .outlen, .res, .tag]
  | .redrun => [.len, .outlen]
  | .redgap => [.len, .outlen]
  | .reduce => [.len, .outlen]
  | .sreset => []

/-- The buffers a completed command may write (20_memory.md R60). -/
def writtenBufs : Instr → List Buf
  | .encsec => [.tb]
  | .decsec => [.wb, .sb]
  | .alignbs => [.wb]
  | .alignsel => [.tb, .wb]
  | .redrun | .redgap | .reduce => [.tb]
  | .nop | .enc4 | .dec4 | .fsync | .fhdr | .badgcr | .syncflg | .cycdet | .isshift | .sreset => []

/-- The `n` elements of `l` from `i` on are all `b`. -/
def RunAt {α : Type} (l : List α) (b : α) (i n : Nat) : Prop :=
  i + n ≤ l.length ∧ ∀ k, i ≤ k → k < i + n → l[k]? = some b

/-- BADGCR is true at position `p` of `W` (41_bitstream_scanner.md R146). -/
def BadAt (W : List Byte) (p : Nat) : Prop :=
  ∃ i < 8, ∀ j < 3,
    ((W.getD (if p = 0 then W.length - 1 else p - 1) 0).extractLsb' 0 2 ++ W.getD p 0).getLsbD (i + j) = false

/-- `d` is what FSYNC answers from the cursor `p` on: the first sync end of the bytes from `p`
(41_bitstream_scanner.md R141). -/
def NextSync (W : List Byte) (p d : Nat) : Prop :=
  p ≤ d ∧ SyncEnd (W.drop p) (d - p) ∧ ∀ d', p ≤ d' → d' < d → ¬ SyncEnd (W.drop p) (d' - p)

/-- `q` is the end of a sync of `W` followed by the header of the wanted track and sector (40_gcr_codec.md R122). -/
def HeaderAt (track sector : Byte) (W : List Byte) (q : Nat) : Prop :=
  SyncEnd W q ∧ q + 10 ≤ W.length
    ∧ ∃ H, H = decBytes params ((W.drop q).take 10) ∧ H.getD 0 0 = 0x08 ∧ H.getD 2 0 = sector ∧ H.getD 3 0 = track

/-- The `n`-th mark after the cursor `p` on the walk of the finder `F`, `p` itself for `n = 0` (42_cycle_detector.md
R164). -/
def markWalk (F : MarkFinder) (p : Nat) : Nat → Option Nat
  | 0 => some p
  | n + 1 => (markWalk F p n).bind F

/-- MARKS accepts the start `s` with the repeat `c` (42_cycle_detector.md R164): `s` is a mark of the walk from 0, `c` one of
the walk from `s + max(CAPMIN − ALLOW, 0)`, at a distance of at most CAPMAX + ALLOW; the windows at every pair of marks
after them agree as long as both walks go on; the window at `c` is valid. -/
def MarkPair (k : CycleInput) (F : MarkFinder) (s c : Nat) : Prop :=
  (∃ n, markWalk F 0 (n + 1) = some s) ∧ (∃ n, markWalk F (s + (k.capMin - k.allow)) (n + 1) = some c)
    ∧ c ≤ s + (k.capMax + k.allow)
    ∧ (∀ n p1 p2, markWalk F s n = some p1 → markWalk F c n = some p2 → cycleWin k p1 = cycleWin k p2)
    ∧ validWin (cycleWin k c) = true

/-- `rs` is the least index from `lo` on with `W[rs .. a−1]` all 0xFF (44_neighbour_units.md R215, R216). -/
def LeastSyncStart (W : List Byte) (lo a rs : Nat) : Prop :=
  lo ≤ rs ∧ rs ≤ a ∧ RunAt W 0xFF rs (a - rs) ∧ ∀ r, lo ≤ r → r < rs → ¬ RunAt W 0xFF r (a - r)

/-- `p` and `a` are the ends of two successive syncs of `W`, the first of them in the first copy
(44_neighbour_units.md R215). -/
def GapSpan (W : List Byte) (L p a : Nat) : Prop :=
  SyncEnd W p ∧ SyncEnd W a ∧ p < a ∧ p < L ∧ ∀ q, p < q → q < a → ¬ SyncEnd W q

/-- `q` is the 0x52 byte of a sector-0 header in the first copy of `W` (44_neighbour_units.md R216). -/
def Sector0At (W : List Byte) (L q : Nat) : Prop :=
  SyncEnd W q ∧ W[q]? = some 0x52 ∧ q < L ∧ q + 5 ≤ W.length
    ∧ ∃ P, P = decBytes params ((W.drop q).take 5) ∧ P.getD 0 0 = 0x08 ∧ P.getD 2 0 = 0x00

/-- The rotated cycle and the registers that ALIGNSEL leaves for the offset `o` and the tag `tag`
(44_neighbour_units.md R214): `t` is the state after it on `s` with the window `C`. -/
def Rotated (s t : State) (C : List Byte) (tag : Byte) (o : Int) : Prop :=
  t = { s with tb := t.tb, wb := t.wb, cycs := 0, len := s.cycl, outlen := s.cycl, res := t.res, tag := tag
               status := s.status ||| 0x01 }
    ∧ (t.res.toNat : Int) = o % C.length
    ∧ Stored s.tb t.tb 0 (C.drop t.res.toNat ++ C.take t.res.toNat) ∧ Stored s.wb t.wb 0 (C ++ C)

/-- `rs` are the maximal runs of equal bytes of `l`, left to right, each as its byte and its length. -/
def IsRuns (rs : List (Byte × Nat)) (l : List Byte) : Prop :=
  l = rs.flatMap (fun x => List.replicate x.2 x.1) ∧ (∀ x ∈ rs, 0 < x.2)
    ∧ ∀ i x y, rs[i]? = some x → rs[i + 1]? = some y → x.1 ≠ y.1

/-- `l'` is what REDRUN leaves of `l` (44_neighbour_units.md R220): `P` whole passes and a last one that stopped before the
run `j` took one byte a pass from every run of `b`, down to `m` bytes and never below; every other run is kept. The passes
end at the target, or over it where no run of `b` is longer than `m`. -/
def RunsStripped (b : Byte) (m target : Nat) (l l' : List Byte) : Prop :=
  (∃ rs P j, IsRuns rs l
      ∧ l' = rs.zipIdx.flatMap fun x =>
          List.replicate (if x.1.1 = b then max (min x.1.2 m) (x.1.2 - (if x.2 < j then P + 1 else P)) else x.1.2) x.1.1)
    ∧ min l.length target ≤ l'.length ∧ (target < l'.length → ∀ i n, RunAt l' b i n → n ≤ m)

/-- The indices of the bytes other than 0xFF that stand immediately before two 0xFF (44_neighbour_units.md R221). -/
def gapPlaces (l : List Byte) : List Nat :=
  (List.range l.length).filter fun i => l[i]? ≠ some 0xFF ∧ l[i + 1]? = some 0xFF ∧ l[i + 2]? = some 0xFF

/-- One pass of REDGAP that drops something (44_neighbour_units.md R221): of the bytes that stand before two 0xFF in the
pass's input, the leftmost ones, as many as the target asks for. -/
def GapPass (target : Nat) (l l' : List Byte) : Prop :=
  target < l.length ∧ gapPlaces l ≠ []
    ∧ l' = (l.zipIdx.filter fun x => x.2 ∉ (gapPlaces l).take (l.length - target)).map Prod.fst

/-- `l'` is what REDGAP leaves of `l` (44_neighbour_units.md R221): passes, until the target or until no byte can go. -/
def GapsStripped (target : Nat) (l l' : List Byte) : Prop :=
  Relation.ReflTransGen (GapPass target) l l' ∧ (target < l'.length → gapPlaces l' = [])

/-- The result of a reducer: TB holds `l'` from 0, LEN and OUTLEN its length, everything else but DONE is as before
(44_neighbour_units.md R220). -/
def Reduced (s t : State) (l' : List Byte) : Prop :=
  t = { s with tb := t.tb, len := BitVec.ofNat 16 l'.length, outlen := BitVec.ofNat 16 l'.length
               status := s.status ||| 0x01 }
    ∧ Stored s.tb t.tb 0 l'

/-- One row of the register map: index, register, width in bits, reset value (`none` holds no value) (10_state.md R37). -/
structure MapRow where
  index : Nat
  reg : Reg
  width : Nat
  reset : Option Nat
deriving DecidableEq, Repr

/-- The register map (10_state.md R37), row by row. -/
def registerMap : List MapRow :=
  [⟨0x00, .pos, 16, some 0⟩, ⟨0x01, .endPos, 16, some 0⟩, ⟨0x02, .len, 16, some 0⟩, ⟨0x03, .cycs, 16, some 0⟩,
    ⟨0x04, .cycl, 16, some 0⟩, ⟨0x05, .track, 8, some 0⟩, ⟨0x06, .sector, 8, some 0⟩, ⟨0x07, .id0, 8, some 0⟩,
    ⟨0x08, .id1, 8, some 0⟩, ⟨0x09, .inj, 8, some 0x01⟩, ⟨0x0A, .zflags, 8, some 0⟩, ⟨0x0B, .target, 16, some 0⟩,
    ⟨0x0C, .runbyte, 8, some 0xFF⟩, ⟨0x0D, .minrun, 8, some 2⟩, ⟨0x0E, .bufsel, 1, some 0⟩, ⟨0x10, .p0, 8, some 0⟩,
    ⟨0x11, .p1, 8, some 0⟩, ⟨0x12, .p2, 8, some 0⟩, ⟨0x13, .p3, 8, some 0⟩, ⟨0x18, .g0, 8, some 0⟩,
    ⟨0x19, .g1, 8, some 0⟩, ⟨0x1A, .g2, 8, some 0⟩, ⟨0x1B, .g3, 8, some 0⟩, ⟨0x1C, .g4, 8, some 0⟩]
  ++ [⟨0x20, .res, 16, some 0⟩, ⟨0x21, .valid, 3, some 0⟩, ⟨0x22, .err, 8, some 0⟩, ⟨0x23, .strat, 2, some 0⟩,
    ⟨0x24, .outlen, 16, some 0⟩, ⟨0x25, .padbits, 16, some 0⟩, ⟨0x26, .tag, 8, some 0⟩, ⟨0x30, .cmd, 8, some 0⟩,
    ⟨0x31, .status, 8, some 0⟩, ⟨0x32, .faultc, 8, some 0⟩]
  ++ [⟨0x40, .capmin 0, 16, none⟩, ⟨0x41, .capmin 1, 16, none⟩, ⟨0x42, .capmin 2, 16, none⟩, ⟨0x43, .capmin 3, 16, none⟩,
    ⟨0x44, .cap 0, 16, none⟩, ⟨0x45, .cap 1, 16, none⟩, ⟨0x46, .cap 2, 16, none⟩, ⟨0x47, .cap 3, 16, none⟩,
    ⟨0x48, .capmax 0, 16, none⟩, ⟨0x49, .capmax 1, 16, none⟩, ⟨0x4A, .capmax 2, 16, none⟩, ⟨0x4B, .capmax 3, 16, none⟩,
    ⟨0x4C, .allow, 16, none⟩, ⟨0x4D, .gaplen, 8, some 7⟩, ⟨0x4E, .fixgcr, 3, some 0⟩, ⟨0x4F, .alignovr, 8, some 0⟩]

/-- The fault code the rule of a command reports, 0 for none: the first failing check of its pseudocode
(60_exceptions.md R242, R244, R245, R246, R247), with every protection matcher absent. -/
def expectedFault (i : Instr) (s : State) : Byte :=
  match i with
  | .nop | .enc4 | .dec4 | .sreset => 0
  | .encsec =>
    if 8192 < s.pos.toNat + 354 then 0x02 else if s.inj ∉ sectorNumbers then 0x03
    else if readBytes s.sb 0 256 = none then 0x04 else 0
  | .decsec =>
    if s.cycl = 0 ∨ 8192 < s.cycs.toNat + s.cycl.toNat then 0x02
    else if readBytes s.tb s.cycs.toNat s.cycl.toNat = none then 0x04 else 0
  | .fsync | .fhdr =>
    if ¬ (s.pos.toNat ≤ s.endPos.toNat ∧ s.endPos.toNat ≤ (scanned s).2) then 0x02
    else if readBytes (scanned s).1 s.pos.toNat (s.endPos.toNat - s.pos.toNat) = none then 0x04 else 0
  | .badgcr =>
    if ¬ (1 ≤ s.len.toNat ∧ s.len.toNat ≤ (scanned s).2 ∧ s.pos.toNat < s.len.toNat) then 0x02
    else if readByte (scanned s).1 s.pos.toNat = none
        ∨ readByte (scanned s).1 (if s.pos = 0 then s.len.toNat - 1 else s.pos.toNat - 1) = none then 0x04
    else 0
  | .syncflg =>
    if (scanned s).2 < s.len.toNat then 0x02 else if readBytes (scanned s).1 0 s.len.toNat = none then 0x04 else 0
  | .cycdet =>
    match zoneGet s.capmin (s.zflags.extractLsb' 0 2), zoneGet s.capmax (s.zflags.extractLsb' 0 2), s.allow with
    | some mn, some mx, some _ =>
      if 8192 < s.len.toNat then 0x02 else if mx.toNat < mn.toNat ∨ s.gaplen = 0 then 0x03
      else if readBytes s.tb 0 s.len.toNat = none then 0x04 else 0
    | _, _, _ => 0x04
  | .isshift | .alignbs =>
    if 8192 < s.cycs.toNat + s.cycl.toNat then 0x02
    else if readBytes s.tb s.cycs.toNat s.cycl.toNat = none then 0x04 else 0
  | .alignsel =>
    if s.cycl = 0 ∨ 8192 < s.cycs.toNat + s.cycl.toNat then 0x02
    else if s.alignovr.toNat ∈ [0x10, 0x11, 0x12, 0x13] then 0x05
    else if s.alignovr.toNat ∉ [0x00, 0x01, 0x02, 0x03, 0x04, 0x05, 0x06] then 0x03
    else if readBytes s.tb s.cycs.toNat s.cycl.toNat = none then 0x04 else 0
  | .redrun | .redgap | .reduce =>
    if 8192 < s.len.toNat then 0x02 else if readBytes s.tb 0 s.len.toNat = none then 0x04 else 0

/-- A change of the state carried through an outcome. -/
def mapNext (f : State → State) : Host.Outcome State Fault Refusal → Host.Outcome State Fault Refusal
  | .next s => .next (f s)
  | .fault r => .fault r
  | .refused r => .refused r

end Sys2Proof.Machine
end

