-- ==== Sys2Proof/Certificates/Slice0/Obligations.lean ====
section
/-! DEFINITION. The statements about the machine, from the numbered rules of spec/. -/

open Sys2Proof Sys2Proof.Machine

/-- R82, R84: the opcode map, byte by byte, and nothing else is an opcode. -/
def Obligations.OpcodeMapIsComplete : Prop :=
  decodeTableWord 8 0x00 = some .nop ∧ decodeTableWord 8 0x01 = some .enc4 ∧ decodeTableWord 8 0x02 = some .dec4
    ∧ decodeTableWord 8 0x03 = some .encsec ∧ decodeTableWord 8 0x04 = some .decsec
    ∧ decodeTableWord 8 0x10 = some .fsync ∧ decodeTableWord 8 0x11 = some .fhdr
    ∧ decodeTableWord 8 0x12 = some .badgcr ∧ decodeTableWord 8 0x13 = some .syncflg
    ∧ decodeTableWord 8 0x20 = some .cycdet
    ∧ decodeTableWord 8 0x30 = some .isshift ∧ decodeTableWord 8 0x31 = some .alignbs
    ∧ decodeTableWord 8 0x40 = some .alignsel ∧ decodeTableWord 8 0x41 = some .redrun
    ∧ decodeTableWord 8 0x42 = some .redgap ∧ decodeTableWord 8 0x43 = some .reduce
    ∧ decodeTableWord 8 0xFF = some .sreset
    ∧ ∀ op : Byte, op.toNat ∉ [0x00, 0x01, 0x02, 0x03, 0x04, 0x10, 0x11, 0x12, 0x13, 0x20, 0x30, 0x31, 0x40, 0x41, 0x42,
        0x43, 0xFF] → decode params op = .error .illegalOpcode

/-- 30_encoding.md sections 1, 2, 4: under any parameters, decoding answers `i` exactly on the opcode of `i`, and only
where the unit of `i` is present. -/
def Obligations.DecodeInvertsEncode : Prop :=
  ∀ (c : Config) (op : Byte) (i : Instr),
    decode c op = .ok i ↔ encode i = op ∧ (c.hasU5 = true ∨ i ∉ [Instr.alignsel, .redrun, .redgap, .reduce])

/-- 30_encoding.md section 3: the host's write of an opcode to CMD stores it in CMD and runs the command it decodes to; of
a number above 255 CMD takes the low byte, and no command is run: the number is no opcode, which faults an unfaulted block.
The list of the host's moves and the value a write carries are the model's own (log entries 2 and 3). -/
def Obligations.StepRunsTheDecodedCommand : Prop :=
  ∀ (s : State) (v : HostValue) (rest : List HostMove), s.host = .write .reg 0x30 v :: rest →
    let n := hostNumber s v
    let s' := { s with host := rest, cmd := BitVec.ofNat 8 n }
    (∀ i, n < 256 → decode params (BitVec.ofNat 8 n) = .ok i → step s = exec i s')
      ∧ (256 ≤ n → s.flag .fault = false → step s = .next (faulted 0x01 s'))
      ∧ (256 ≤ n → s.flag .fault = true → step s = .next s')

/-- R20, R268: with no host move left a step changes nothing. -/
def Obligations.NoHostMoveNoChange : Prop := ∀ s : State, s.host = [] → step s = .next s

/-- R84, R243: a value that is no opcode, or a U5 opcode without U5, raises FLT_ILLCMD; the value is compared whole, CMD
takes its low byte (R83). -/
def Obligations.IllegalCommandFaults : Prop :=
  ∀ (c : Config) (n : Nat) (s : State), s.flag .fault = false →
    ((∀ i, (encode i).toNat ≠ n) ∨ (c.hasU5 = false ∧ n ∈ [0x40, 0x41, 0x42, 0x43])) →
      startCommand c n s = .next (faulted 0x01 { s with cmd := BitVec.ofNat 8 n })

/-- 60_exceptions.md section 6: while FAULT is 1 a CMD write other than SRESET only stores its low byte. -/
def Obligations.FaultedBlockIgnoresCommands : Prop :=
  ∀ (c : Config) (n : Nat) (s : State), s.flag .fault = true → n ≠ 0xFF →
    startCommand c n s = .next { s with cmd := BitVec.ofNat 8 n }

/-- R31: CMD holds the value the host wrote (its low byte, R37), whatever the command did, unless it was SRESET. -/
def Obligations.CmdHoldsTheValueWritten : Prop :=
  ∀ (c : Config) (n : Nat) (s t : State), n ≠ 0xFF → startCommand c n s = .next t → t.cmd = BitVec.ofNat 8 n

/-- 60_exceptions.md section 8: NOP does nothing but set DONE, so that after it DONE is 1 exactly where FAULT is 0; SRESET
performs the reset, also while FAULT is 1. That the reset keeps `host`, `hostData` and `drawn` is the model's (log entry
10). -/
def Obligations.NopAndSresetComplete : Prop :=
  (∀ s : State, s.flag .fault = false → exec .nop s = .next { s with status := s.status ||| 0x01 })
    ∧ (∀ s : State, Inv s → ∃ t, exec .nop s = .next t ∧ (t.flag .done = true ↔ t.flag .fault = false))
    ∧ ∀ s : State, ∃ t, exec .sreset s = .next t ∧ t.status = 0 ∧ t.cmd = 0
        ∧ t = { State.reset with host := s.host, hostData := s.hostData, drawn := s.drawn }

/-- R261: the reset state, register by register. -/
def Obligations.ResetLeavesTheStatedValues : Prop :=
  let r := State.reset
  r.pos = 0 ∧ r.endPos = 0 ∧ r.len = 0 ∧ r.cycs = 0 ∧ r.cycl = 0 ∧ r.target = 0
    ∧ r.track = 0 ∧ r.sector = 0 ∧ r.id0 = 0 ∧ r.id1 = 0 ∧ r.zflags = 0 ∧ r.bufsel = 0
    ∧ r.inj = 0x01 ∧ r.runbyte = 0xFF ∧ r.minrun = 2 ∧ r.gaplen = 7 ∧ r.fixgcr = 0 ∧ r.alignovr = 0
    ∧ r.p0 = 0 ∧ r.p1 = 0 ∧ r.p2 = 0 ∧ r.p3 = 0 ∧ r.g0 = 0 ∧ r.g1 = 0 ∧ r.g2 = 0 ∧ r.g3 = 0 ∧ r.g4 = 0
    ∧ r.res = 0 ∧ r.valid = 0 ∧ r.err = 0 ∧ r.strat = 0 ∧ r.outlen = 0 ∧ r.padbits = 0 ∧ r.tag = 0
    ∧ r.cmd = 0 ∧ r.status = 0 ∧ r.faultc = 0
    ∧ (∀ z, zoneGet r.capmin z = none ∧ zoneGet r.cap z = none ∧ zoneGet r.capmax z = none) ∧ r.allow = none
    ∧ (∀ b a, readByte (r.mem b) a = none) ∧ ∀ b a, hostView params r (.buf b) a = none

/-- 70_reset_and_hazards.md section 1: the platform's reset and the SRESET command leave the same state. -/
def Obligations.PlatformResetEqualsSreset : Prop :=
  ∀ s : State, hostMove params .reset s = startCommand params 0xFF s

/-- R100: ENC4 packs the eight codes, high nibble first, first code in the most significant bits, into G0..G4, and
changes nothing else but DONE. The code table is the default of 30_encoding.md section 8 (log entry 1). -/
def Obligations.Enc4PacksTheEightCodes : Prop :=
  ((List.range 16).map fun n => gcrCode params (BitVec.ofNat 4 n)) =
      [0x0A, 0x0B, 0x12, 0x13, 0x0E, 0x0F, 0x16, 0x17, 0x09, 0x19, 0x1A, 0x1B, 0x0D, 0x1D, 0x1E, 0x15]
  ∧ ∀ s : State, s.flag .fault = false → ∃ t, exec .enc4 s = .next t
    ∧ t = { s with g0 := t.g0, g1 := t.g1, g2 := t.g2, g3 := t.g3, g4 := t.g4, status := s.status ||| 0x01 }
    ∧ t.g0 ++ t.g1 ++ t.g2 ++ t.g3 ++ t.g4 =
        gcrCode params (s.p0.extractLsb' 4 4) ++ gcrCode params (s.p0.extractLsb' 0 4)
        ++ gcrCode params (s.p1.extractLsb' 4 4) ++ gcrCode params (s.p1.extractLsb' 0 4)
        ++ gcrCode params (s.p2.extractLsb' 4 4) ++ gcrCode params (s.p2.extractLsb' 0 4)
        ++ gcrCode params (s.p3.extractLsb' 4 4) ++ gcrCode params (s.p3.extractLsb' 0 4)

/-- R104, R105: DEC4 writes, for each plain byte, its two nibbles where both codes are codes of the table and 0xFF
where one is not; VALID is the index of the first plain byte that failed, or 4; nothing else changes but DONE. -/
def Obligations.Dec4InvertsTheCodes : Prop :=
  ∀ s : State, s.flag .fault = false → ∃ t, exec .dec4 s = .next t
    ∧ t = { s with p0 := t.p0, p1 := t.p1, p2 := t.p2, p3 := t.p3, valid := t.valid, status := s.status ||| 0x01 }
    ∧ ∀ (V : Group) (good : Nat → Prop), V = s.g0 ++ s.g1 ++ s.g2 ++ s.g3 ++ s.g4 →
      (∀ j, good j ↔ ∃ hi lo : BitVec 4, gcrCode params hi = V.extractLsb' (35 - 5 * (2 * j)) 5
          ∧ gcrCode params lo = V.extractLsb' (35 - 5 * (2 * j + 1)) 5) →
        (∀ j < 4, ∀ hi lo : BitVec 4, gcrCode params hi = V.extractLsb' (35 - 5 * (2 * j)) 5 →
            gcrCode params lo = V.extractLsb' (35 - 5 * (2 * j + 1)) 5 → [t.p0, t.p1, t.p2, t.p3][j]? = some (hi ++ lo))
        ∧ (∀ j < 4, ¬ good j → [t.p0, t.p1, t.p2, t.p3][j]? = some 0xFF)
        ∧ t.valid.toNat ≤ 4 ∧ (∀ j < t.valid.toNat, good j) ∧ (t.valid.toNat < 4 → ¬ good t.valid.toNat)

/-- 40_gcr_codec.md section 2: DEC4 after ENC4 gives the plain bytes back with VALID = 4, for all 2^32 groups. -/
def Obligations.Enc4ThenDec4RoundTrips : Prop :=
  ∀ s : State, s.flag .fault = false → ∃ t u, exec .enc4 s = .next t ∧ exec .dec4 t = .next u
    ∧ u.p0 = s.p0 ∧ u.p1 = s.p1 ∧ u.p2 = s.p2 ∧ u.p3 = s.p3 ∧ u.valid = 4

/-- 40_gcr_codec.md section 1: an encoded stream has no bad-GCR window, the wrap at position 0 included, no sync of FSYNC and
no sync run of ten 1 bits. -/
def Obligations.EncodedStreamHasNoBadGcrAndNoSync : Prop :=
  ∀ l : List Byte, (∀ p < (encBytes params l).length, badGcr (encBytes params l) (encBytes params l).length p = false)
    ∧ (∀ q, ¬ SyncEnd (encBytes params l) q) ∧ ∀ a b, ¬ SyncRun (bitString (encBytes params l)) a b

/-- R110: ENCSEC writes the 354-byte image at TB[POS..], advances POS, sets OUTLEN, and changes nothing else but DONE;
FLT_RANGE where the image does not fit, then FLT_BADARG for an INJ that is no code, then FLT_UNINIT for an unwritten
payload byte. -/
def Obligations.EncsecWritesTheSectorImage : Prop :=
  ∀ s : State, s.flag .fault = false →
    (8192 < s.pos.toNat + 354 → exec .encsec s = .next (faulted 0x02 s))
    ∧ (s.pos.toNat + 354 ≤ 8192 → s.inj ∉ sectorNumbers → exec .encsec s = .next (faulted 0x03 s))
    ∧ (s.pos.toNat + 354 ≤ 8192 → s.inj ∈ sectorNumbers → readBytes s.sb 0 256 = none →
        exec .encsec s = .next (faulted 0x04 s))
    ∧ ∀ pay, s.pos.toNat + 354 ≤ 8192 → s.inj ∈ sectorNumbers → readBytes s.sb 0 256 = some pay →
        ∃ t, exec .encsec s = .next t
          ∧ t = { s with tb := t.tb, pos := s.pos + 354, outlen := 354, status := s.status ||| 0x01 }
          ∧ (writtenImage s.inj s.track s.sector s.id0 s.id1 pay).length = 354
          ∧ Stored s.tb t.tb s.pos.toNat (writtenImage s.inj s.track s.sector s.id0 s.id1 pay)

/-- 40_gcr_codec.md section 4: DECSEC leaves the doubled cycle in WB[0..2·CYCL), the payload of `decodeSector` in
SB[0..256), its code in ERR, and changes nothing else but DONE. -/
def Obligations.DecsecStoresItsResult : Prop :=
  ∀ (s : State) (C : List Byte), s.flag .fault = false → s.cycl ≠ 0 → s.cycs.toNat + s.cycl.toNat ≤ 8192 →
    readBytes s.tb s.cycs.toNat s.cycl.toNat = some C →
      ∃ t, exec .decsec s = .next t
        ∧ t = { s with wb := t.wb, sb := t.sb, err := t.err, status := s.status ||| 0x01 }
        ∧ t.err = defaultErrNumber (decodeSector params s.track s.sector s.id0 s.id1 (C ++ C)).1
        ∧ (decodeSector params s.track s.sector s.id0 s.id1 (C ++ C)).2.length = 256
        ∧ Stored s.wb t.wb 0 (C ++ C)
        ∧ Stored s.sb t.sb 0 (decodeSector params s.track s.sector s.id0 s.id1 (C ++ C)).2

/-- 40_gcr_codec.md section 4: the code is SyncNotFound exactly where the doubled cycle holds no sync, and the payload is
then the filler. -/
def Obligations.SyncNotFoundMeansNoSync : Prop :=
  ∀ (track sector id0 id1 : Byte) (W : List Byte),
    ((decodeSector params track sector id0 id1 W).1 = .syncNotFound ↔ ∀ q, ¬ SyncEnd W q)
      ∧ ((∀ q, ¬ SyncEnd W q) →
          (decodeSector params track sector id0 id1 W).2 = 0x4B :: List.replicate 255 0x01)

/-- 40_gcr_codec.md section 4: the code and the payload of DECSEC for every doubled cycle, condition by condition in their
order: no sync; no matching header; and for the first matching header its checksum, a bad-GCR window in it, the next sync's
data block absent, a bad-GCR window in that, the ID, the marker, the data checksum; Ok only where none holds. The layout and
the filler are the defaults (log entry 1). -/
def Obligations.DecsecReportsTheFirstCondition : Prop :=
  ∀ (track sector id0 id1 : Byte) (W filler : List Byte) (r : SectorError × List Byte),
    r = decodeSector params track sector id0 id1 W → filler = 0x4B :: List.replicate 255 0x01 →
      ((∀ q, ¬ SyncEnd W q) → r = (.syncNotFound, filler))
      ∧ ((∃ q, SyncEnd W q) → (∀ q, ¬ HeaderAt track sector W q) → r = (.headerNotFound, filler))
      ∧ ∀ q H, HeaderAt track sector W q → (∀ q' < q, ¬ HeaderAt track sector W q') →
        H = decBytes params ((W.drop q).take 10) →
          (H.getD 2 0 ^^^ H.getD 3 0 ^^^ H.getD 4 0 ^^^ H.getD 5 0 ≠ H.getD 1 0 → r = (.badHeaderChecksum, filler))
          ∧ (H.getD 2 0 ^^^ H.getD 3 0 ^^^ H.getD 4 0 ^^^ H.getD 5 0 = H.getD 1 0 →
            ((∃ j < 10, BadAt W (q + j)) → r = (.badGcrCode, filler))
            ∧ ((∀ j < 10, ¬ BadAt W (q + j)) →
              ((∀ d, NextSync W (q + 10) d → W.length < d + 325) →
                r = (if H.getD 5 0 ≠ id0 ∨ H.getD 4 0 ≠ id1 then .idMismatch else .dataNotFound, filler))
              ∧ ∀ d D, NextSync W (q + 10) d → d + 325 ≤ W.length → D = decBytes params ((W.drop d).take 325) →
                r.2 = (D.drop 1).take 256
                ∧ ((∃ j < 325, BadAt W (d + j)) → r.1 = .badGcrCode)
                ∧ ((∀ j < 325, ¬ BadAt W (d + j)) →
                  r.1 = if H.getD 5 0 ≠ id0 ∨ H.getD 4 0 ≠ id1 then .idMismatch
                    else if D.getD 0 0 ≠ 0x07 then .dataNotFound
                    else if xorBytes ((D.drop 1).take 256) ≠ D.getD 257 0 then .badDataChecksum
                    else .ok)))

/-- 40_gcr_codec.md sections 3 and 4 (the document's injected-error fidelity): DECSEC on the isolated image that ENCSEC
wrote, with the same TRACK, SECTOR, ID0 and ID1, reports exactly the code in INJ. -/
def Obligations.InjectedErrorIsReportedExactly : Prop :=
  ∀ (s : State) (pay : List Byte), s.flag .fault = false → s.pos.toNat + 354 ≤ 8192 → s.inj ∈ sectorNumbers →
    readBytes s.sb 0 256 = some pay →
      ∃ t u, exec .encsec s = .next t ∧ exec .decsec { t with cycs := s.pos, cycl := 354 } = .next u ∧ u.err = s.inj

/-- 40_gcr_codec.md section 4 (the document's round trip): for every payload, track, sector and ID, DECSEC on the image
that ENCSEC wrote without an injected error gives Ok and the payload. -/
def Obligations.EncsecThenDecsecRoundTrips : Prop :=
  ∀ (s : State) (pay : List Byte), s.flag .fault = false → s.pos.toNat + 354 ≤ 8192 → s.inj = 0x01 →
    readBytes s.sb 0 256 = some pay →
      ∃ t u, exec .encsec s = .next t ∧ exec .decsec { t with cycs := s.pos, cycl := 354 } = .next u ∧ u.err = 0x01
        ∧ ∀ a < 256, readByte u.sb a = pay[a]?

/-- R140, R141: FSYNC finds the first sync of B[POS..END): FOUND, and RES and POS at its end; with none FOUND is 0 and
RES and POS are END; FLT_RANGE and FLT_UNINIT as the rule says; nothing else changes but DONE. -/
def Obligations.FsyncFindsTheFirstSyncEnd : Prop :=
  ∀ s : State, s.flag .fault = false →
    (¬ (s.pos.toNat ≤ s.endPos.toNat ∧ s.endPos.toNat ≤ (scanned s).2) → exec .fsync s = .next (faulted 0x02 s))
    ∧ (s.pos.toNat ≤ s.endPos.toNat → s.endPos.toNat ≤ (scanned s).2 →
        (readBytes (scanned s).1 s.pos.toNat (s.endPos.toNat - s.pos.toNat) = none →
          exec .fsync s = .next (faulted 0x04 s))
        ∧ ∀ l, readBytes (scanned s).1 s.pos.toNat (s.endPos.toNat - s.pos.toNat) = some l →
          (∀ q, SyncEnd l q → (∀ q' < q, ¬ SyncEnd l q') →
            exec .fsync s = .next { s with
              res := s.pos + BitVec.ofNat 16 q, pos := s.pos + BitVec.ofNat 16 q, status := doneWith s.status 0x02 true })
          ∧ ((∀ q, ¬ SyncEnd l q) →
            exec .fsync s = .next { s with res := s.endPos, pos := s.endPos, status := doneWith s.status 0x02 false }))

/-- R144: FHDR finds the first sync of B[POS..END) whose next byte is 0x52 and answers the position just past that byte;
else as FSYNC. -/
def Obligations.FhdrFindsTheFirstHeaderMark : Prop :=
  ∀ s : State, s.flag .fault = false →
    (¬ (s.pos.toNat ≤ s.endPos.toNat ∧ s.endPos.toNat ≤ (scanned s).2) → exec .fhdr s = .next (faulted 0x02 s))
    ∧ (s.pos.toNat ≤ s.endPos.toNat → s.endPos.toNat ≤ (scanned s).2 →
        (readBytes (scanned s).1 s.pos.toNat (s.endPos.toNat - s.pos.toNat) = none →
          exec .fhdr s = .next (faulted 0x04 s))
        ∧ ∀ l, readBytes (scanned s).1 s.pos.toNat (s.endPos.toNat - s.pos.toNat) = some l →
          (∀ q, SyncEnd l q → l.getD q 0 = 0x52 → (∀ q' < q, SyncEnd l q' → l.getD q' 0 ≠ 0x52) →
            exec .fhdr s = .next { s with
              res := s.pos + BitVec.ofNat 16 (q + 1), pos := s.pos + BitVec.ofNat 16 (q + 1)
              status := doneWith s.status 0x02 true })
          ∧ ((∀ q, SyncEnd l q → l.getD q 0 ≠ 0x52) →
            exec .fhdr s = .next { s with res := s.endPos, pos := s.endPos, status := doneWith s.status 0x02 false }))

/-- R146: BADGCR sets BAD exactly where the ten bits, the two low bits of the byte before POS (of the last byte of the
declared length where POS = 0) and the byte at POS, hold three consecutive zeros; FLT_RANGE and FLT_UNINIT as the rule
says; nothing else changes but DONE. -/
def Obligations.BadgcrTestsTheTenBitWindow : Prop :=
  ∀ s : State, s.flag .fault = false →
    (¬ (1 ≤ s.len.toNat ∧ s.len.toNat ≤ (scanned s).2 ∧ s.pos.toNat < s.len.toNat) →
      exec .badgcr s = .next (faulted 0x02 s))
    ∧ ∀ before, before = (if s.pos = 0 then s.len.toNat - 1 else s.pos.toNat - 1) →
      1 ≤ s.len.toNat → s.len.toNat ≤ (scanned s).2 → s.pos.toNat < s.len.toNat →
        ((readByte (scanned s).1 before = none ∨ readByte (scanned s).1 s.pos.toNat = none) →
          Memory.wf (scanned s).2 (scanned s).1 → exec .badgcr s = .next (faulted 0x04 s))
        ∧ ∀ prev cur, readByte (scanned s).1 before = some prev → readByte (scanned s).1 s.pos.toNat = some cur →
          Memory.wf (scanned s).2 (scanned s).1 →
          ∃ bad : Bool, exec .badgcr s = .next { s with status := doneWith s.status 0x04 bad }
            ∧ (bad = true ↔ ∃ i < 8, ∀ j < 3, (prev.extractLsb' 0 2 ++ cur).getLsbD (i + j) = false)

/-- R148, R149: SYNCFLG counts the bytes 0x7F and 0xFF of B[0..LEN): none sets bit 6 of ZFLAGS, else LEN − 3 or more set
bit 7, else nothing; FLT_RANGE and FLT_UNINIT as the rule says; nothing else changes but DONE. -/
def Obligations.SyncflgClassifiesTheTrack : Prop :=
  ∀ s : State, s.flag .fault = false →
    ((scanned s).2 < s.len.toNat → exec .syncflg s = .next (faulted 0x02 s))
    ∧ (s.len.toNat ≤ (scanned s).2 → readBytes (scanned s).1 0 s.len.toNat = none →
        exec .syncflg s = .next (faulted 0x04 s))
    ∧ ∀ l n, s.len.toNat ≤ (scanned s).2 → readBytes (scanned s).1 0 s.len.toNat = some l →
        n = (l.filter fun b => b = 0x7F ∨ b = 0xFF).length →
        exec .syncflg s = .next { s with
          zflags := if n = 0 then s.zflags ||| 0x40 else if (s.len.toNat : Int) - 3 ≤ n then s.zflags ||| 0x80 else s.zflags
          status := s.status ||| 0x01 }

/-- R162: the tests of CHECK in their order; the first that fails raises its fault; LEN = 0 is legal and gives (0, 0). -/
def Obligations.CycdetChecksInOrder : Prop :=
  ∀ (s : State) (z : BitVec 2), s.flag .fault = false → z = s.zflags.extractLsb' 0 2 →
    ((zoneGet s.capmin z = none ∨ zoneGet s.capmax z = none ∨ s.allow = none) →
      exec .cycdet s = .next (faulted 0x04 s))
    ∧ ∀ mn mx a, zoneGet s.capmin z = some mn → zoneGet s.capmax z = some mx → s.allow = some a →
      (8192 < s.len.toNat → exec .cycdet s = .next (faulted 0x02 s))
      ∧ (s.len.toNat ≤ 8192 → (mx.toNat < mn.toNat ∨ s.gaplen = 0) → exec .cycdet s = .next (faulted 0x03 s))
      ∧ (s.len.toNat ≤ 8192 → mn.toNat ≤ mx.toNat → s.gaplen ≠ 0 → readBytes s.tb 0 s.len.toNat = none →
          exec .cycdet s = .next (faulted 0x04 s))
      ∧ (s.len = 0 → mn.toNat ≤ mx.toNat → s.gaplen ≠ 0 →
          exec .cycdet s = .next { s with cycs := 0, cycl := 0, strat := 0, status := s.status ||| 0x01 })

/-- 42_cycle_detector.md sections 2 and 8: once its checks pass, CYCDET completes with the cycle of `detectCycle` on the
capture: the first strategy that succeeds, in the order header, sync, raw, gives STRAT and, its length extended by
`cyclePost`, CYCS and CYCL; where none does it is the whole capture. CYCS + CYCL is at most LEN; nothing else changes but
DONE. -/
def Obligations.CycdetCompletesInsideTheCapture : Prop :=
  ∀ (s : State) (z : BitVec 2) (mn mx a : Word) (l : List Byte) (k : CycleInput),
    s.flag .fault = false → z = s.zflags.extractLsb' 0 2 → zoneGet s.capmin z = some mn → zoneGet s.capmax z = some mx →
    s.allow = some a → s.len.toNat ≤ 8192 → mn.toNat ≤ mx.toNat → s.gaplen ≠ 0 →
    readBytes s.tb 0 s.len.toNat = some l → k = ⟨l, s.gaplen.toNat, mn.toNat, mx.toNat, a.toNat⟩ →
      ∃ t, exec .cycdet s = .next t
        ∧ t = { s with cycs := t.cycs, cycl := t.cycl, strat := t.strat, status := s.status ||| 0x01 }
        ∧ (t.cycs.toNat, t.cycl.toNat) = (detectCycle k).1
        ∧ t.cycs.toNat + t.cycl.toNat ≤ s.len.toNat
        ∧ (t.strat = 1 ↔ (strategyHeader k).isSome)
        ∧ (t.strat = 2 ↔ strategyHeader k = none ∧ (strategySync k).isSome)
        ∧ (t.strat = 3 ↔ strategyHeader k = none ∧ strategySync k = none ∧ (strategyRaw k).isSome)
        ∧ (t.strat = 0 ↔ strategyHeader k = none ∧ strategySync k = none ∧ strategyRaw k = none)
        ∧ (t.strat = 0 → t.cycs = 0 ∧ t.cycl = s.len)
        ∧ (∀ r, strategyHeader k = some r → (t.cycs.toNat, t.cycl.toNat) = cyclePost k r)
        ∧ (∀ r, strategyHeader k = none → strategySync k = some r → (t.cycs.toNat, t.cycl.toNat) = cyclePost k r)
        ∧ (∀ r, strategyHeader k = none → strategySync k = none → strategyRaw k = some r →
            (t.cycs.toNat, t.cycl.toNat) = cyclePost k r)

/-- 42_cycle_detector.md section 3: a capture shorter than GAPLEN + 2 bytes gets the whole-buffer fallback. -/
def Obligations.ShortCaptureGetsTheFallback : Prop :=
  ∀ k : CycleInput, k.tb.length < k.gap + 2 → 0 < k.gap → 0 < k.capMin + k.allow →
    detectCycle k = ((0, k.tb.length), 0)

/-- R164: MARKS with FHDR or FSYNC answers the smallest start that has an accepted repeat, with the smallest accepted
distance, and fails exactly where no pair is accepted (`MarkPair` of Safety.lean); the pair has equal, valid windows, at a
distance from CAPMIN − ALLOW to CAPMAX + ALLOW. -/
def Obligations.MarksFindsTheFirstVerifiedRepeat : Prop :=
  ∀ (k : CycleInput) (F : MarkFinder),
    (F = (fun p => fhdr k.tb p (cycleStop k)) ∨ F = fun p => fsync k.tb p (cycleStop k)) →
      (∀ s l, marks k F = some (s, l) ↔
        MarkPair k F s (s + l) ∧ (∀ s' < s, ∀ c, ¬ MarkPair k F s' c) ∧ ∀ l' < l, ¬ MarkPair k F s (s + l'))
      ∧ (marks k F = none ↔ ∀ s c, ¬ MarkPair k F s c)
      ∧ ∀ s l, marks k F = some (s, l) →
        0 < l ∧ cycleWin k s = cycleWin k (s + l) ∧ validWin (cycleWin k (s + l)) = true
          ∧ (k.capMin : Int) - k.allow ≤ l ∧ l ≤ k.capMax + k.allow

/-- 42_cycle_detector.md section 5: RAW answers the first pair, by smallest start and then shortest length, whose windows
match and are valid, at a distance from CAPMIN + ALLOW to CAPMAX + ALLOW; it fails where there is none. At CAPMIN = ALLOW = 0
that a position may pair with itself is the model's reading (log entry 13). -/
def Obligations.RawFindsTheFirstMatchingPair : Prop :=
  ∀ k : CycleInput,
    (∀ s l, strategyRaw k = some (s, l) ↔
      RawMatch k s (s + l) ∧ (∀ l' < l, ¬ RawMatch k s (s + l')) ∧ ∀ s' < s, ∀ p2, ¬ RawMatch k s' p2)
    ∧ (strategyRaw k = none ↔ ∀ p1 p2, ¬ RawMatch k p1 p2)

/-- R168: a window is valid exactly when it holds no 0xFF, no adjacent 0x55 0xAA or 0xAA 0x55, and at most two positions
where three equal bytes or a pattern a b a b begin. -/
def Obligations.ValidWindowCountsAsStated : Prop :=
  ∀ w : List Byte, validWin w = true ↔
    0xFF ∉ w
    ∧ (∀ i, i + 1 < w.length → (w[i]?, w[i + 1]?) ≠ (some 0x55, some 0xAA) ∧ (w[i]?, w[i + 1]?) ≠ (some 0xAA, some 0x55))
    ∧ ((List.range (w.length - 2)).filter fun i => w[i]? = w[i + 1]? ∧ w[i + 1]? = w[i + 2]?).length
      + ((List.range (w.length - 3)).filter fun i => w[i]? = w[i + 2]? ∧ w[i + 1]? = w[i + 3]? ∧ w[i]? ≠ w[i + 1]?).length ≤ 2

/-- R171: a length at or below CAPMIN is extended once by half of CAPMAX − CAPMIN, never beyond the capture. -/
def Obligations.PostExtendsAShortLength : Prop :=
  ∀ (k : CycleInput) (s l : Nat), s + l ≤ k.tb.length → k.capMin ≤ k.capMax →
    cyclePost k (s, l) =
      if l ≤ k.capMin then (s, min (l + (k.capMax - k.capMin) / 2) (k.tb.length - s)) else (s, l)

/-- R190, R192: ISSHIFT sets SHIFTED exactly where some sync run of the window's bit string ends neither at its end nor
on a byte boundary; FLT_RANGE and FLT_UNINIT as the rule says; nothing else changes but DONE. -/
def Obligations.IsshiftTestsTheSyncEnds : Prop :=
  ∀ s : State, s.flag .fault = false →
    (8192 < s.cycs.toNat + s.cycl.toNat → exec .isshift s = .next (faulted 0x02 s))
    ∧ (s.cycs.toNat + s.cycl.toNat ≤ 8192 → readBytes s.tb s.cycs.toNat s.cycl.toNat = none →
        exec .isshift s = .next (faulted 0x04 s))
    ∧ ∀ l, s.cycs.toNat + s.cycl.toNat ≤ 8192 → readBytes s.tb s.cycs.toNat s.cycl.toNat = some l →
        ∃ shifted : Bool, exec .isshift s = .next { s with status := doneWith s.status 0x08 shifted }
          ∧ (shifted = true ↔ ∃ a b, SyncRun (bitString l) a b ∧ b ≠ 8 * s.cycl.toNat ∧ b % 8 ≠ 0)

/-- R195: ALIGNBS takes FLT_RANGE for a window outside TB and FLT_UNINIT for one not written. On every other window it
completes; its output is the window's bits with `pad a` bits 0 inserted immediately before each sync run `(a, b)` and
nowhere else, `pad a` below 8 and such that the run ends on a byte boundary; OUTLEN, PADBITS and WB[0..OUTLEN) hold it,
zero-filled to a byte; nothing else changes but DONE. So every sync run of the output ends on a byte boundary, and the
output holds the window's bits in order and PADBITS more, all 0. -/
def Obligations.AlignbsAlignsEverySync : Prop :=
  ∀ s : State, s.flag .fault = false →
    (8192 < s.cycs.toNat + s.cycl.toNat → exec .alignbs s = .next (faulted 0x02 s))
    ∧ (s.cycs.toNat + s.cycl.toNat ≤ 8192 → readBytes s.tb s.cycs.toNat s.cycl.toNat = none →
        exec .alignbs s = .next (faulted 0x04 s))
    ∧ ∀ l x, s.cycs.toNat + s.cycl.toNat ≤ 8192 → readBytes s.tb s.cycs.toNat s.cycl.toNat = some l → x = bitString l →
      ∃ (t : State) (pad : Nat → Nat) (y : List Bool), exec .alignbs s = .next t
        ∧ t = { s with wb := t.wb, outlen := t.outlen, padbits := t.padbits, status := s.status ||| 0x01 }
        ∧ (∀ a, (∀ b, ¬ SyncRun x a b) → pad a = 0)
        ∧ (∀ a b, SyncRun x a b → pad a < 8 ∧ (b + ((List.range (a + 1)).map pad).sum) % 8 = 0)
        ∧ y = ((List.range x.length).flatMap fun k => List.replicate (pad k) false ++ [x.getD k false])
        ∧ t.padbits.toNat = ((List.range x.length).map pad).sum
        ∧ t.outlen.toNat = (8 * s.cycl.toNat + t.padbits.toNat + 7) / 8
        ∧ Stored s.wb t.wb 0 (packBits t.outlen.toNat y)
        ∧ (∀ a b, SyncRun y a b → b % 8 = 0)
        ∧ x.Sublist y ∧ y.length = 8 * s.cycl.toNat + t.padbits.toNat ∧ y.countP id = x.countP id

/-- 43_bit_aligner.md section 4: a window without a sync run is copied as it is, with no pad bit. -/
def Obligations.AlignbsCopiesATrackWithoutSync : Prop :=
  ∀ (s : State) (l : List Byte), s.flag .fault = false → s.cycs.toNat + s.cycl.toNat ≤ 8192 →
    readBytes s.tb s.cycs.toNat s.cycl.toNat = some l → (∀ a b, ¬ SyncRun (bitString l) a b) →
      ∃ t, exec .alignbs s = .next t
        ∧ t = { s with wb := t.wb, outlen := s.cycl, padbits := 0, status := s.status ||| 0x01 } ∧ Stored s.wb t.wb 0 l

/-- 44_neighbour_units.md section 3: for every legal override whose matcher is present ALIGNSEL completes: TB[0..L) is the
cycle rotated by the offset in RES, which is below CYCL; WB[0..2L) is the doubled cycle; CYCS is 0, LEN and OUTLEN are
CYCL, TAG is the tag chosen; nothing else changes but DONE. The overrides and the tags have the numbers of
30_encoding.md section 10. -/
def Obligations.AlignselRotatesTheCycle : Prop :=
  (overrideOf 0x00 = some .automatic ∧ overrideOf 0x01 = some .gap ∧ overrideOf 0x02 = some .sector0
    ∧ overrideOf 0x03 = some .longestSync ∧ overrideOf 0x04 = some .badGcrRun ∧ overrideOf 0x05 = some .autoGap
    ∧ overrideOf 0x06 = some .raw
    ∧ overrideOf 0x10 = some (.signature .vmax) ∧ overrideOf 0x11 = some (.signature .vmaxCinemaware)
    ∧ overrideOf 0x12 = some (.signature .pirateSlayer) ∧ overrideOf 0x13 = some (.signature .rapidLok)
    ∧ ∀ b : Byte, b ∉ [0x00, 0x01, 0x02, 0x03, 0x04, 0x05, 0x06, 0x10, 0x11, 0x12, 0x13] → overrideOf b = none)
  ∧ (tagNumber .none = 0x00 ∧ tagNumber .gap = 0x01 ∧ tagNumber .sector0 = 0x02 ∧ tagNumber .longestSync = 0x03
    ∧ tagNumber .badGcrRun = 0x04 ∧ tagNumber .autoGap = 0x05
    ∧ tagNumber (.signature .vmax) = 0x10 ∧ tagNumber (.signature .vmaxCinemaware) = 0x11
    ∧ tagNumber (.signature .pirateSlayer) = 0x12 ∧ tagNumber (.signature .rapidLok) = 0x13)
  ∧ ∀ (s : State) (C : List Byte) (v : Override), s.flag .fault = false → s.cycl ≠ 0 →
    s.cycs.toNat + s.cycl.toNat ≤ 8192 → overrideOf s.alignovr = some v → (∀ k, v ≠ .signature k) →
    readBytes s.tb s.cycs.toNat s.cycl.toNat = some C →
      ∃ t, exec .alignsel s = .next t
        ∧ t = { s with tb := t.tb, wb := t.wb, cycs := 0, len := s.cycl, outlen := s.cycl, res := t.res, tag := t.tag
                       status := s.status ||| 0x01 }
        ∧ t.res.toNat < s.cycl.toNat
        ∧ (t.res.toNat : Int) = (selectAlign params (C ++ C) C.length v).2 % C.length
        ∧ t.tag = tagNumber (selectAlign params (C ++ C) C.length v).1
        ∧ Stored s.tb t.tb 0 (C.drop t.res.toNat ++ C.take t.res.toNat)
        ∧ Stored s.wb t.wb 0 (C ++ C)

/-- 44_neighbour_units.md sections 2 and 3, R245, R246: the operand checks of ALIGNSEL in their order. -/
def Obligations.AlignselChecksInOrder : Prop :=
  ∀ s : State, s.flag .fault = false →
    ((s.cycl = 0 ∨ 8192 < s.cycs.toNat + s.cycl.toNat) → exec .alignsel s = .next (faulted 0x02 s))
    ∧ (s.cycl ≠ 0 → s.cycs.toNat + s.cycl.toNat ≤ 8192 →
        (s.alignovr.toNat ∉ [0x00, 0x01, 0x02, 0x03, 0x04, 0x05, 0x06, 0x10, 0x11, 0x12, 0x13] →
          exec .alignsel s = .next (faulted 0x03 s))
        ∧ (s.alignovr.toNat ∈ [0x10, 0x11, 0x12, 0x13] → exec .alignsel s = .next (faulted 0x05 s))
        ∧ (s.alignovr.toNat ∈ [0x00, 0x01, 0x02, 0x03, 0x04, 0x05, 0x06] →
            readBytes s.tb s.cycs.toNat s.cycl.toNat = none → exec .alignsel s = .next (faulted 0x04 s)))

/-- 44_neighbour_units.md section 3: the forced raw override leaves the cycle unrotated, tagged None. -/
def Obligations.ForcedRawDoesNotRotate : Prop :=
  ∀ (s : State) (C : List Byte), s.flag .fault = false → s.cycl ≠ 0 → s.cycs.toNat + s.cycl.toNat ≤ 8192 →
    s.alignovr = 0x06 → readBytes s.tb s.cycs.toNat s.cycl.toNat = some C →
      ∃ t, exec .alignsel s = .next t ∧ t.tag = 0x00 ∧ t.res = 0 ∧ Stored s.tb t.tb 0 C

/-- 44_neighbour_units.md section 3: under any parameters, the automatic order: the first present matcher that finds its
signature, in the order V-MAX, V-MAX Cinemaware, PirateSlayer, RapidLok; else a gap of more than 357 bytes, a sector-0 header,
any gap, the auto gap, nothing; the first applicable wins. A forced method falls through to no other: what it does not find
leaves the track unrotated, tagged None. -/
def Obligations.AutomaticOrderTakesTheFirstApplicable : Prop :=
  ∀ (c : Config) (W : List Byte) (L : Nat),
    (∀ tag o, selectAlign c W L .automatic = (tag, o) →
      (∃ ks k ks' f, ks ++ k :: ks' = [ProtKind.vmax, .vmaxCinemaware, .pirateSlayer, .rapidLok]
        ∧ c.protMatch k = some f ∧ f W L = some o ∧ tag = .signature k
        ∧ ∀ k' ∈ ks, ∀ f', c.protMatch k' = some f' → f' W L = none)
      ∨ ((∀ k f, c.protMatch k = some f → f W L = none)
        ∧ ((∃ span, gapSearch W L = some (span, o.toNat) ∧ 357 < span ∧ tag = .gap ∧ 0 ≤ o)
          ∨ ((∀ g, gapSearch W L = some g → g.1 ≤ 357)
            ∧ ((sector0Search c W L = some o.toNat ∧ tag = .sector0 ∧ 0 ≤ o)
              ∨ (sector0Search c W L = none
                ∧ ((∃ span, gapSearch W L = some (span, o.toNat) ∧ tag = .gap ∧ 0 ≤ o)
                  ∨ (gapSearch W L = none
                    ∧ ((autoGapSearch W = some o ∧ tag = .autoGap)
                      ∨ (autoGapSearch W = none ∧ tag = .none ∧ o = 0))))))))))
    ∧ selectAlign c W L .gap = (match gapSearch W L with | some g => (.gap, (g.2 : Int)) | none => (.none, 0))
    ∧ selectAlign c W L .sector0 = (match sector0Search c W L with | some o => (.sector0, (o : Int)) | none => (.none, 0))
    ∧ selectAlign c W L .longestSync = (match longSyncSearch W with | some o => (.longestSync, (o : Int)) | none => (.none, 0))
    ∧ selectAlign c W L .badGcrRun = (match badRunSearch W with | some o => (.badGcrRun, (o : Int)) | none => (.none, 0))
    ∧ selectAlign c W L .autoGap = (match autoGapSearch W with | some o => (.autoGap, o) | none => (.none, 0))
    ∧ selectAlign c W L .raw = (.none, 0)
    ∧ ∀ k f, c.protMatch k = some f →
        selectAlign c W L (.signature k) = (match f W L with | some o => (.signature k, o) | none => (.none, 0))

/-- 44_neighbour_units.md section 3: the auto gap is five before the start of the longest run of at least two equal bytes, the
forced longest sync the start of the longest run of 0xFF, both the first on ties; the forced bad run is the start of a longest
run of positions with a bad-GCR window, and that it is the first on ties is the model's reading (log entry 18). Each answers
nothing exactly where there is no such run. -/
def Obligations.LongestRunsAreTheFirstLongest : Prop :=
  ∀ W : List Byte,
    (∀ o, autoGapSearch W = some o ↔ ∃ i n b, 2 ≤ n ∧ RunAt W b i n ∧ o = (i : Int) - 5
      ∧ ∀ j m b', RunAt W b' j m → m ≤ n ∧ (m = n → i ≤ j))
    ∧ (autoGapSearch W = none ↔ ∀ i b, ¬ RunAt W b i 2)
    ∧ (∀ i, longSyncSearch W = some i ↔ ∃ n, 0 < n ∧ RunAt W 0xFF i n
      ∧ ∀ j m, RunAt W 0xFF j m → m ≤ n ∧ (m = n → i ≤ j))
    ∧ (longSyncSearch W = none ↔ 0xFF ∉ W)
    ∧ (∀ i, badRunSearch W = some i ↔ ∃ n, 0 < n ∧ i + n ≤ W.length ∧ (∀ p, i ≤ p → p < i + n → BadAt W p)
      ∧ ∀ j m, j + m ≤ W.length → (∀ p, j ≤ p → p < j + m → BadAt W p) → m ≤ n ∧ (m = n → i ≤ j))
    ∧ (badRunSearch W = none ↔ ∀ p < W.length, ¬ BadAt W p)

/-- R215: GAP answers the longest span between the ends of two successive syncs whose first is in the first copy, the first on
ties, and as rotation point the end of a data block at its start, or the start of the closing sync where that comes first; it
answers nothing exactly where there is no such span. -/
def Obligations.GapIsTheFirstLongestSpan : Prop :=
  ∀ (W : List Byte) (L : Nat),
    (∀ span o, gapSearch W L = some (span, o) ↔
      ∃ p a rs, GapSpan W L p a ∧ span = a - p ∧ LeastSyncStart W p a rs ∧ o = min (p + 325) rs
        ∧ ∀ p' a', GapSpan W L p' a' → a' - p' ≤ span ∧ (a' - p' = span → p ≤ p'))
    ∧ (gapSearch W L = none ↔ ∀ p a, ¬ GapSpan W L p a)

/-- R216: SECTOR0 answers the start of the sync of the first header in the first copy that decodes to the header ID 0x08 and
the sector 0, and nothing exactly where there is none. The layout is the default (log entry 1). -/
def Obligations.Sector0IsTheFirstHeader : Prop :=
  ∀ (W : List Byte) (L : Nat),
    (∀ rs, sector0Search params W L = some rs ↔
      ∃ q, Sector0At W L q ∧ (∀ q' < q, ¬ Sector0At W L q') ∧ LeastSyncStart W 0 q rs)
    ∧ (sector0Search params W L = none ↔ ∀ q, ¬ Sector0At W L q)

/-- R213: every matcher is absent by default. Under any parameters with U5, in the automatic order the first present matcher
that finds an offset, in the order V-MAX, V-MAX Cinemaware, PirateSlayer, RapidLok, gives TAG = 0x10 + its index and the
rotation; an override of 0x10 to 0x13 runs that one matcher, and raises FLT_UNSUP where it is absent. -/
def Obligations.PresentMatcherWins : Prop :=
  (∀ k, params.protMatch k = none)
    ∧ ∀ (c : Config) (s : State) (C : List Byte) (ks ks' : List ProtKind) (k : ProtKind), c.hasU5 = true →
      s.flag .fault = false → s.cycl ≠ 0 → s.cycs.toNat + s.cycl.toNat ≤ 8192 →
      readBytes s.tb s.cycs.toNat s.cycl.toNat = some C →
      ks ++ k :: ks' = [.vmax, .vmaxCinemaware, .pirateSlayer, .rapidLok] →
        (∀ f o, c.protMatch k = some f → s.alignovr = 0x00 → f (C ++ C) C.length = some o →
          (∀ k' ∈ ks, ∀ f', c.protMatch k' = some f' → f' (C ++ C) C.length = none) →
            ∃ t, startCommand c 0x40 s = .next t
              ∧ Rotated { s with cmd := 0x40 } t C (BitVec.ofNat 8 (0x10 + ks.length)) o)
        ∧ (∀ f, c.protMatch k = some f → s.alignovr.toNat = 0x10 + ks.length →
          (∀ o, f (C ++ C) C.length = some o →
            ∃ t, startCommand c 0x40 s = .next t ∧ Rotated { s with cmd := 0x40 } t C s.alignovr o)
          ∧ (f (C ++ C) C.length = none →
            ∃ t, startCommand c 0x40 s = .next t ∧ Rotated { s with cmd := 0x40 } t C 0x00 0))
        ∧ (c.protMatch k = none → s.alignovr.toNat = 0x10 + ks.length →
          startCommand c 0x40 s = .next (faulted 0x05 { s with cmd := 0x40 }))

/-- R220: REDRUN takes FLT_RANGE for LEN beyond TB and FLT_UNINIT for an unwritten byte; else it completes with what
`RunsStripped` says: bytes equal to RUNBYTE go one a run and pass, left to right, until the target, and no run is cut below
MINRUN; the result goes back to TB from 0, LEN and OUTLEN hold its length; nothing else changes but DONE. -/
def Obligations.RedrunStripsRunsToTheTarget : Prop :=
  ∀ s : State, s.flag .fault = false →
    (8192 < s.len.toNat → exec .redrun s = .next (faulted 0x02 s))
    ∧ (s.len.toNat ≤ 8192 → readBytes s.tb 0 s.len.toNat = none → exec .redrun s = .next (faulted 0x04 s))
    ∧ ∀ l, s.len.toNat ≤ 8192 → readBytes s.tb 0 s.len.toNat = some l →
      ∃ (t : State) (l' : List Byte), exec .redrun s = .next t ∧ Reduced s t l'
        ∧ RunsStripped s.runbyte s.minrun.toNat s.target.toNat l l'
        ∧ l'.Sublist l ∧ (l'.filter fun b => b ≠ s.runbyte) = (l.filter fun b => b ≠ s.runbyte)

/-- R221: REDGAP takes FLT_RANGE for LEN beyond TB and FLT_UNINIT for an unwritten byte; else it completes with what
`GapsStripped` says: each pass drops only bytes other than 0xFF that stand immediately before two 0xFF in its input, the
leftmost first, until the target; the result goes back to TB from 0, LEN and OUTLEN hold its length; nothing else changes
but DONE. -/
def Obligations.RedgapStripsBeforeSyncs : Prop :=
  ∀ s : State, s.flag .fault = false →
    (8192 < s.len.toNat → exec .redgap s = .next (faulted 0x02 s))
    ∧ (s.len.toNat ≤ 8192 → readBytes s.tb 0 s.len.toNat = none → exec .redgap s = .next (faulted 0x04 s))
    ∧ ∀ l, s.len.toNat ≤ 8192 → readBytes s.tb 0 s.len.toNat = some l →
      ∃ (t : State) (l' : List Byte), exec .redgap s = .next t ∧ Reduced s t l' ∧ GapsStripped s.target.toNat l l'
        ∧ l'.Sublist l ∧ l'.count 0xFF = l.count 0xFF ∧ min s.len.toNat s.target.toNat ≤ l'.length

/-- R222: REDUCE takes FLT_RANGE for LEN beyond TB and FLT_UNINIT for an unwritten byte; else it strips 0xFF runs, then 0x00
runs, then the bytes before syncs, each down to the target, and cuts the tail; so the new LEN is the smaller of the old LEN
and TARGET, and the bytes that remain keep their order; nothing else changes but TB, OUTLEN and DONE. -/
def Obligations.ReduceReachesTheTarget : Prop :=
  ∀ s : State, s.flag .fault = false →
    (8192 < s.len.toNat → exec .reduce s = .next (faulted 0x02 s))
    ∧ (s.len.toNat ≤ 8192 → readBytes s.tb 0 s.len.toNat = none → exec .reduce s = .next (faulted 0x04 s))
    ∧ ∀ l, s.len.toNat ≤ 8192 → readBytes s.tb 0 s.len.toNat = some l →
      ∃ (t : State) (l1 l2 l3 : List Byte), exec .reduce s = .next t ∧ Reduced s t (l3.take s.target.toNat)
        ∧ RunsStripped 0xFF s.minrun.toNat s.target.toNat l l1 ∧ RunsStripped 0x00 s.minrun.toNat s.target.toNat l1 l2
        ∧ GapsStripped s.target.toNat l2 l3
        ∧ (l3.take s.target.toNat).Sublist l ∧ t.len.toNat = min s.len.toNat s.target.toNat

/-- 60_exceptions.md sections 3 and 4: on an unfaulted block every command but SRESET takes the fault of its first failing
check, and where no check fails it completes with DONE set and no fault. That ALIGNSEL takes FLT_UNSUP for every override
from 0x10 to 0x13 is the model's choice of parameters, with no matcher present (log entry 9). -/
def Obligations.FirstFailingCheckIsReported : Prop :=
  ∀ (i : Instr) (s : State), s.flag .fault = false → Inv s → i ≠ .sreset →
    (expectedFault i s ≠ 0 → exec i s = .next (faulted (expectedFault i s) s))
      ∧ (expectedFault i s = 0 → ∃ t, exec i s = .next t ∧ t.flag .fault = false ∧ t.flag .done = true)

/-- R241: a command that faults changes STATUS.FAULT, STATUS.DONE and FAULTC and nothing else, FAULTC taking one of the
five codes where it was 0. -/
def Obligations.FaultChangesNothingElse : Prop :=
  ∀ (i : Instr) (s t : State), s.flag .fault = false → exec i s = .next t → t.flag .fault = true →
    ∃ n ∈ ([0x01, 0x02, 0x03, 0x04, 0x05] : List Byte), t = faulted n s

/-- 60_exceptions.md section 6: a faulted block leaves the fault state by SRESET only, and no other command changes it. -/
def Obligations.FaultIsStickyUntilReset : Prop :=
  ∀ (i : Instr) (s t : State), s.flag .fault = true → exec i s = .next t → i ≠ .sreset → t = s

/-- 30_encoding.md section 3: every command answers a next state, and on an unfaulted block DONE is 1 afterwards exactly
where FAULT is 0, but for SRESET. -/
def Obligations.EveryCommandCompletesOrFaults : Prop :=
  ∀ (i : Instr) (s : State), ∃ t, exec i s = .next t
    ∧ (i ≠ .sreset → s.flag .fault = false → (t.flag .done = true ↔ t.flag .fault = false))

/-- 10_state.md section 7: a command that does not list a flag leaves that flag unchanged. -/
def Obligations.UnlistedFlagsAreUnchanged : Prop :=
  ∀ (i : Instr) (s t : State), i ≠ .sreset → exec i s = .next t →
    (i ∉ [Instr.fsync, .fhdr] → t.flag .found = s.flag .found) ∧ (i ≠ .badgcr → t.flag .bad = s.flag .bad)
      ∧ (i ≠ .isshift → t.flag .shifted = s.flag .shifted) ∧ t.status &&& 0x70 = s.status &&& 0x70

/-- 10_state.md sections 4, 5, 6 and 20_memory.md section 1: the frame of every command but SRESET: every register and
buffer it does not list as written, and the host's own record, is unchanged. -/
def Obligations.UnlistedStateIsUnchanged : Prop :=
  ∀ (i : Instr) (s t : State), i ≠ .sreset → exec i s = .next t →
    (∀ r, r ∉ writtenRegs i → r ≠ .status → r ≠ .faultc → readReg params t r = readReg params s r)
      ∧ (∀ b, b ∉ writtenBufs i → ∀ a, readByte (t.mem b) a = readByte (s.mem b) a)
      ∧ t.host = s.host ∧ t.hostData = s.hostData ∧ t.drawn = s.drawn

/-- 10_state.md section 8 and 44_neighbour_units.md section 5: no command reads FIXGCR: another value of it changes
nothing that a command does. -/
def Obligations.NoCommandReadsFixgcr : Prop :=
  ∀ (i : Instr) (s : State) (v : BitVec 3), i ≠ .sreset →
    exec i { s with fixgcr := v } = mapNext (fun t => { t with fixgcr := v }) (exec i s)

/-- 10_state.md section 6: a host write to a result register has no effect on any command: with other values in all seven of
them the command does the same to every other register, flag and byte; a completed command leaves the same values in the
result registers it writes, and the host's in the rest; a command that faults or is ignored leaves the host's in all. -/
def Obligations.ResultRegistersAreOutputsOnly : Prop :=
  ∀ (i : Instr) (s t : State) (vRes vOut vPad : Word) (vErr vTag : Byte) (vVal : BitVec 3) (vStrat : BitVec 2) (w : Reg → Bool),
    i ≠ .sreset → exec i s = .next t → (∀ r, w r = true ↔ t.flag .fault = false ∧ r ∈ writtenRegs i) →
      exec i { s with
          res := vRes, outlen := vOut, padbits := vPad, err := vErr, tag := vTag, valid := vVal, strat := vStrat }
        = .next { t with
          res := if w .res then t.res else vRes
          outlen := if w .outlen then t.outlen else vOut
          padbits := if w .padbits then t.padbits else vPad
          err := if w .err then t.err else vErr
          tag := if w .tag then t.tag else vTag
          valid := if w .valid then t.valid else vVal
          strat := if w .strat then t.strat else vStrat }

/-- R37: the register map. A host read of a row's index returns its register, which holds the row's reset value after
reset; a write stores the low bits at the row's width and changes no other register; STATUS and FAULTC ignore writes, and CMD
holds what was written unless it was SRESET; every other index reads 0 and ignores writes. A write to another index than
CMD's is that store alone, and it leaves every buffer as before. -/
def Obligations.RegisterMapAsStated : Prop :=
  (∀ (s : State) (a v : Nat), a ∉ registerMap.map MapRow.index →
      hostView params s .reg a = some 0 ∧ hostStore params .reg a v s = s)
    ∧ (∀ x ∈ registerMap, hostView params State.reset .reg x.index = x.reset.map (BitVec.ofNat 16)
        ∧ ∀ s : State, hostView params s .reg x.index = readReg params s x.reg)
    ∧ (∀ (s : State) (v : Nat), hostStore params .reg 0x31 v s = s ∧ hostStore params .reg 0x32 v s = s)
    ∧ (∀ (s t : State) (v : Nat), v ≠ 0xFF → startCommand params v s = .next t →
        hostView params t .reg 0x30 = some (BitVec.ofNat 16 (v % 256)))
    ∧ (∀ (s : State) (a : Nat) (v : HostValue), a ≠ 0x30 →
        hostMove params (.write .reg a v) s = .next (hostStore params .reg a (hostNumber s v) s)
          ∧ ∀ b, (hostStore params .reg a (hostNumber s v) s).mem b = s.mem b)
    ∧ ∀ x ∈ registerMap, ∀ y ∈ registerMap, ∀ (s : State) (v : Nat), x.index ∉ [0x30, 0x31, 0x32] →
        hostView params (hostStore params .reg x.index v s) .reg y.index =
          if y = x then some (BitVec.ofNat 16 (v % 2 ^ x.width)) else hostView params s .reg y.index

/-- R61, R65: the host reads back the byte it wrote, every other byte of every buffer and every register keeps its state, and
a write past a buffer's capacity has no effect. A host read of a buffer gives the byte held there, shown in 16 bits (log
entry 11), and no value at and past the capacity. -/
def Obligations.BufferWriteReadsBack : Prop :=
  ∀ (c : Config) (s : State) (b b' : Buf) (a a' v : Nat),
    let t := hostStore c (.buf b) a v s
    (bufCap b ≤ a → t = s ∧ hostView c s (.buf b) a = none)
    ∧ (a < bufCap b →
        readByte (t.mem b') a' = (if b' = b ∧ a' = a then some (BitVec.ofNat 8 v) else readByte (s.mem b') a')
        ∧ hostView c t (.buf b) a = some (BitVec.ofNat 16 (v % 256))
        ∧ hostView c s (.buf b) a = (readByte (s.mem b) a).map (BitVec.setWidth 16))
    ∧ (∀ r, readReg c t r = readReg c s r) ∧ t.host = s.host ∧ t.hostData = s.hostData ∧ t.drawn = s.drawn
    ∧ ∀ w, hostMove c (.write (.buf b) a w) s = .next (hostStore c (.buf b) a (hostNumber s w) s)

/-- 20_memory.md sections 1 and 4: a host read changes nothing of the block, and returns the value of what holds one. -/
def Obligations.HostReadHasNoSideEffect : Prop :=
  ∀ (c : Config) (s : State) (sp : Space) (a : Nat),
    hostRead c sp a s = { s with hostData := (hostRead c sp a s).hostData, drawn := (hostRead c sp a s).drawn }
      ∧ (∀ v, hostView c s sp a = some v → (hostRead c sp a s).hostData = v ∧ (hostRead c sp a s).drawn = s.drawn)
      ∧ hostMove c (.read sp a) s = .next (hostRead c sp a s)

/-- R12: U5 is present by default; without it its four opcodes are illegal commands and TARGET, RUNBYTE, MINRUN, ALIGNOVR and TAG read as zero and
ignore writes. -/
def Obligations.AbsentU5IsIllegalAndReadsZero : Prop :=
  params.hasU5 = true ∧ ∀ (c : Config) (s : State), c.hasU5 = false →
    (∀ op ∈ ([0x40, 0x41, 0x42, 0x43] : List Nat), s.flag .fault = false →
      startCommand c op s = .next (faulted 0x01 { s with cmd := BitVec.ofNat 8 op }))
    ∧ ∀ r ∈ [Reg.target, .runbyte, .minrun, .alignovr, .tag], ∀ v,
        hostView c s .reg (regIndex r) = some 0 ∧ hostStore c .reg (regIndex r) v s = s

/-- 70_reset_and_hazards.md section 1, 20_memory.md section 8: the reset state satisfies the invariant of the machine. -/
def Obligations.ResetSatisfiesInv : Prop := Inv State.reset

/-- 10_state.md sections 7, 8 and 20_memory.md sections 1, 8: every step, from every state that satisfies the invariant,
leaves a state that satisfies it: canonical buffers within their capacities, reserved STATUS bits 0, DONE 0 while FAULT
is 1, and FAULTC telling whether a fault was taken. -/
def Obligations.EveryStepKeepsInv : Prop := ∀ s t : State, Inv s → step s = .next t → Inv t

/-- 70_reset_and_hazards.md section 5: every run from reset ends, in a state that satisfies the invariant, and has either
completed, with DONE = 1 where its last CMD write was a command other than SRESET, or faulted, and not both (a platform reset
counts as SRESET: log entry 17). Whatever the CMD write carried, a literal or the number last read, an unfaulted run that
makes no other CMD write and no reset after it ends with DONE = 1 and the byte in CMD. -/
def Obligations.EveryRunEndsCompletedOrFaulted : Prop :=
  (∀ ms : List HostMove, ∃ t, runMoves ms State.reset = .next t ∧ Inv t
      ∧ ((Completed ms t ∧ ¬ Faulted ms t) ∨ (Faulted ms t ∧ ¬ Completed ms t)))
    ∧ ∀ (ms rest : List HostMove) (v : HostValue) (s t : State), runMoves ms State.reset = .next s →
      hostNumber s v ≠ 0xFF → (∀ m ∈ rest, m ≠ .reset ∧ ∀ x, m ≠ .write .reg 0x30 x) →
      runMoves (ms ++ .write .reg 0x30 v :: rest) State.reset = .next t → t.flag .fault = false →
        t.flag .done = true ∧ t.cmd = BitVec.ofNat 8 (hostNumber s v)
end

