-- ==== Sys2Proof/Laws/Bits.lean ====
section
/-! SUPPORT. Bit strings, maximal runs, the bit-copy cursor rule and the passes of the reducers. -/

namespace Sys2Proof.Machine

@[simp] theorem byteBits_length (b : Byte) : (byteBits b).length = 8 := rfl

/-- A byte list of `L` bytes is a bit string of `8·L` bits (00_scope.md R14). -/
@[simp] theorem bitString_length (l : List Byte) : (bitString l).length = 8 * l.length := by
  induction l with
  | nil => rfl
  | cons b l ih =>
    have : bitString (b :: l) = byteBits b ++ bitString l := rfl
    rw [this, List.length_append, ih, byteBits_length, List.length_cons]
    omega

@[simp] theorem packBits_length (n : Nat) (x : List Bool) : (packBits n x).length = n := by
  induction n generalizing x with
  | zero => rfl
  | succ n ih => simp [packBits, ih]

@[simp] theorem byteOfBits_byteBits (b : Byte) : byteOfBits (byteBits b) = b := by revert b; decide +kernel

/-- Packing the bit string of a byte list gives the list back. -/
theorem packBits_bitString (l : List Byte) : packBits l.length (bitString l) = l := by
  induction l with
  | nil => rfl
  | cons b l ih =>
    have : bitString (b :: l) = byteBits b ++ bitString l := rfl
    rw [this, List.length_cons, packBits, List.take_left' (byteBits_length b), List.drop_left' (byteBits_length b), ih,
      byteOfBits_byteBits]

/-- The list a list of runs stands for. -/
def expandRuns {α : Type} (r : List (α × Nat)) : List α := r.flatMap fun x => List.replicate x.2 x.1

theorem expandRuns_pushRun {α : Type} [DecidableEq α] (a : α) (r : List (α × Nat)) :
    expandRuns (pushRun a r) = a :: expandRuns r := by
  cases r with
  | nil => rfl
  | cons x r =>
    obtain ⟨b, k⟩ := x
    by_cases h : a = b
    · subst h; simp [pushRun, expandRuns, List.replicate_succ]
    · simp [pushRun, expandRuns, h]

/-- The maximal runs of a list, written out, are the list. -/
theorem expandRuns_runsOf {α : Type} [DecidableEq α] (l : List α) : expandRuns (runsOf l) = l := by
  induction l with
  | nil => rfl
  | cons a l ih =>
    have : runsOf (a :: l) = pushRun a (runsOf l) := rfl
    rw [this, expandRuns_pushRun, ih]

/-- The runs are not empty and neighbours differ: they are maximal. -/
theorem runsOf_maximal {α : Type} [DecidableEq α] (l : List α) :
    (∀ x ∈ runsOf l, 0 < x.2) ∧ (runsOf l).IsChain (fun x y => x.1 ≠ y.1) := by
  induction l with
  | nil => simp [runsOf]
  | cons a l ih =>
    have e : runsOf (a :: l) = pushRun a (runsOf l) := rfl
    rw [e]
    cases hr : runsOf l with
    | nil => simp [pushRun]
    | cons x r =>
      obtain ⟨b, k⟩ := x
      rw [hr] at ih
      by_cases h : a = b
      · subst h
        simp only [pushRun, if_true]
        refine ⟨fun y hy => ?_, ?_⟩
        · rcases List.mem_cons.1 hy with rfl | hy
          · simp
          · exact ih.1 y (by simp [hy])
        · cases r with
          | nil => simp
          | cons y r =>
            obtain ⟨h1, h2⟩ := List.isChain_cons_cons.1 ih.2
            exact List.isChain_cons_cons.2 ⟨h1, h2⟩
      · simp only [pushRun, h, if_false]
        refine ⟨fun y hy => ?_, List.isChain_cons_cons.2 ⟨h, ih.2⟩⟩
        rcases List.mem_cons.1 hy with rfl | hy
        · simp
        · exact ih.1 y hy

/-- The steps of BITCOPY move exactly the bits requested (43_bit_aligner.md R193). -/
theorem bitCopySteps_sum {fuel sp dp n : Nat} (h : n ≤ fuel) : (bitCopySteps fuel sp dp n).sum = n := by
  induction fuel generalizing sp dp n with
  | zero => simp [bitCopySteps]; omega
  | succ m ih =>
    by_cases hn : n = 0
    · simp [bitCopySteps, hn]
    · have : 1 ≤ min (min (8 - dp % 8) (8 - sp % 8)) n := by omega
      simp only [bitCopySteps, hn, if_false, List.sum_cons]
      rw [ih (by omega)]
      omega

/-- No step of BITCOPY is empty or leaves its source or target byte (43_bit_aligner.md R193). -/
theorem bitCopySteps_le {fuel sp dp n : Nat} : ∀ k ∈ bitCopySteps fuel sp dp n, 0 < k ∧ k ≤ 8 := by
  induction fuel generalizing sp dp n with
  | zero => simp [bitCopySteps]
  | succ m ih =>
    by_cases hn : n = 0
    · simp [bitCopySteps, hn]
    · simp only [bitCopySteps, hn, if_false, List.mem_cons]
      rintro k (rfl | hk)
      · omega
      · exact ih k hk

/-- Emitting bits in two parts is emitting them at once: the result of BITCOPY does not depend on its steps
(43_bit_aligner.md R193). -/
theorem bitCopy_add (mode : CopyMode) (src : List Bool) (sp n k : Nat) :
    bitCopy mode src sp (n + k) = bitCopy mode src sp n ++ bitCopy mode src (sp + n) k := by
  cases mode with
  | data => simp only [bitCopy, List.take_add, List.drop_drop]
  | zero => simp [bitCopy]
  | one => simp [bitCopy]

/-- A pass of REDRUN keeps the order, drops as many bytes as it counts, and never goes below the target
(44_neighbour_units.md R220). -/
theorem redrunPass_spec (target : Nat) (byte : Byte) (minrun len0 : Nat) (r : List (Byte × Nat)) (k : Nat) :
    (redrunPass target byte minrun len0 r k).1.Sublist (expandRuns r)
      ∧ k ≤ (redrunPass target byte minrun len0 r k).2
      ∧ (redrunPass target byte minrun len0 r k).1.length + (redrunPass target byte minrun len0 r k).2
          = (expandRuns r).length + k
      ∧ (k + target ≤ len0 → (redrunPass target byte minrun len0 r k).2 + target ≤ len0) := by
  induction r generalizing k with
  | nil => simp [redrunPass, expandRuns]
  | cons x r ih =>
    obtain ⟨b, n⟩ := x
    have e : expandRuns ((b, n) :: r) = List.replicate n b ++ expandRuns r := rfl
    simp only [redrunPass]
    split_ifs with h
    · obtain ⟨h1, h2, h3, h4⟩ := ih (k + 1)
      refine ⟨?_, by simp only; omega, ?_, fun _ => h4 (by omega)⟩
      · rw [e]
        exact List.Sublist.append (by simp) h1
      · rw [e]
        simp only [List.length_append, List.length_replicate]
        omega
    · obtain ⟨h1, h2, h3, h4⟩ := ih k
      refine ⟨?_, h2, ?_, h4⟩
      · rw [e]
        exact List.Sublist.append (List.Sublist.refl _) h1
      · rw [e]
        simp only [List.length_append, List.length_replicate]
        omega

/-- A pass of REDGAP keeps the order, drops as many bytes as it counts, and never goes below the target
(44_neighbour_units.md R221). -/
theorem redgapPass_spec (target len0 : Nat) (l : List Byte) (k : Nat) :
    (redgapPass target len0 l k).1.Sublist l
      ∧ k ≤ (redgapPass target len0 l k).2
      ∧ (redgapPass target len0 l k).1.length + (redgapPass target len0 l k).2 = l.length + k
      ∧ (k + target ≤ len0 → (redgapPass target len0 l k).2 + target ≤ len0) := by
  induction l generalizing k with
  | nil => simp [redgapPass]
  | cons a l ih =>
    match l with
    | [] => simp [redgapPass]
    | [b] => simp [redgapPass]
    | b :: c :: r =>
      simp only [redgapPass]
      split_ifs with h
      · obtain ⟨h1, h2, h3, h4⟩ := ih (k + 1)
        refine ⟨h1.cons a, by omega, ?_, fun _ => h4 (by omega)⟩
        simp only [List.length_cons] at h3 ⊢
        omega
      · obtain ⟨h1, h2, h3, h4⟩ := ih k
        refine ⟨h1.cons_cons a, h2, ?_, h4⟩
        simp only [List.length_cons] at h3 ⊢
        omega

end Sys2Proof.Machine
end

