-- ==== Sys2Proof/Laws/Flags.lean ====
section
/-! SUPPORT. The flags of STATUS: reading after setting, and the bits that stay 0. -/

namespace Sys2Proof.Machine

theorem withFlag_false (v : Byte) (f : Flag) : withFlag v f false = v &&& ~~~(1#8 <<< flagBit f) := rfl

theorem withFlag_true (v : Byte) (f : Flag) : withFlag v f true = v ||| (1#8 <<< flagBit f) := rfl

/-- Setting a flag sets that flag and leaves every other flag. -/
@[simp] theorem flagOf_withFlag (v : Byte) (f f' : Flag) (b : Bool) :
    flagOf (withFlag v f b) f' = if f = f' then b else flagOf v f' := by
  cases f <;> cases f' <;> cases b <;> simp [flagOf, withFlag, flagBit]

/-- Setting a flag keeps the reserved bits 6:4 at 0 (10_state.md R29). -/
theorem withFlag_reserved (v : Byte) (f : Flag) (b : Bool) (h : v &&& 0x70 = 0) : withFlag v f b &&& 0x70 = 0 := by
  revert v; cases f <;> cases b <;> decide +kernel

/-- The status of a command that completes: DONE cleared, then set. -/
theorem withFlag_done_done (v : Byte) : withFlag (withFlag v .done false) .done true = v ||| 1 := by
  revert v; decide +kernel

/-- The status of a command that faults. -/
theorem withFlag_done_fault (v : Byte) : withFlag (withFlag v .done false) .fault true = (v &&& 0xFE) ||| 0x80 := by
  revert v; decide +kernel

/-- Setting another flag and setting DONE are independent. -/
theorem withFlag_done_comm (v : Byte) (f : Flag) (b : Bool) (h : f ≠ .done) :
    withFlag (withFlag (withFlag v .done false) f b) .done true = withFlag v f b ||| 1 := by
  revert v; cases f <;> cases b <;> first | exact absurd rfl h | decide +kernel

theorem faultNumber_ne_zero (c : FaultCode) : faultNumber c ≠ 0 := by cases c <;> decide

theorem faultNumber_le (c : FaultCode) : (faultNumber c).toNat ≤ 5 := by cases c <;> decide

end Sys2Proof.Machine
end

