-- ==== Sys2Proof/Laws/Memory.lean ====
section
/-! SUPPORT. The buffers: reading after writing, and the canonical form (20_memory.md R65, R72). -/

namespace Sys2Proof.Machine

theorem readByte_append (m m' : Memory) (a : Nat) : readByte (m ++ m') a = (readByte m a).or (readByte m' a) := by
  induction m with
  | nil => simp [readByte]
  | cons x m ih =>
    obtain ⟨k, v⟩ := x
    by_cases h : k = a <;> simp [readByte, h, ih]

theorem readByte_eq_none {m : Memory} {a : Nat} (h : ∀ x ∈ m, x.1 ≠ a) : readByte m a = none := by
  induction m with
  | nil => rfl
  | cons x m ih =>
    obtain ⟨k, v⟩ := x
    have hk : k ≠ a := h (k, v) (by simp)
    simp only [readByte, hk, if_false]
    exact ih fun y hy => h y (by simp [hy])

/-- Filtering by address leaves the kept addresses readable and hides the others. -/
theorem readByte_filter (m : Memory) (p : Nat → Bool) (a : Nat) :
    readByte (m.filter fun x => p x.1) a = if p a then readByte m a else none := by
  induction m with
  | nil => simp [readByte]
  | cons x m ih =>
    obtain ⟨k, v⟩ := x
    by_cases hk : p k
    · simp only [List.filter_cons, hk, if_true, readByte]
      by_cases h : k = a
      · subst h; simp [hk]
      · simp [h, ih]
    · simp only [List.filter_cons, hk, readByte]
      by_cases h : k = a
      · subst h; simp [hk, ih]
      · simp [h, ih]

theorem readByte_cellsFrom (a : Nat) (l : List Byte) (x : Nat) :
    readByte (cellsFrom a l) x = if a ≤ x then l[x - a]? else none := by
  induction l generalizing a with
  | nil => simp [cellsFrom, readByte]
  | cons v l ih =>
    simp only [cellsFrom, readByte, ih]
    by_cases h : a = x
    · subst h; simp
    · by_cases h' : a ≤ x
      · have h2 : a + 1 ≤ x := by omega
        have h3 : x - a = (x - (a + 1)) + 1 := by omega
        simp [h, h', h2, h3]
      · have h2 : ¬ a + 1 ≤ x := by omega
        simp [h, h', h2]

/-- A byte after a write: the byte written inside the region, the byte before outside it (20_memory.md R65). -/
theorem readByte_writeBytes (m : Memory) (a : Nat) (l : List Byte) (x : Nat) :
    readByte (writeBytes m a l) x = if a ≤ x ∧ x < a + l.length then l[x - a]? else readByte m x := by
  simp only [writeBytes, readByte_append]
  have e1 := readByte_filter m (fun k => decide (k < a)) x
  have e2 := readByte_filter m (fun k => decide (a + l.length ≤ k)) x
  simp only [decide_eq_true_eq] at e1 e2
  rw [e1, e2, readByte_cellsFrom]
  by_cases h1 : x < a
  · have : ¬ a ≤ x := by omega
    have h3 : ¬ a + l.length ≤ x := by omega
    simp [h1, this, h3]
  · by_cases h2 : x < a + l.length
    · have h3 : ¬ a + l.length ≤ x := by omega
      have : a ≤ x := by omega
      simp [h1, h2, h3, this]
    · have h3 : a + l.length ≤ x := by omega
      have : a ≤ x := by omega
      have h4 : l.length ≤ x - a := by omega
      simp [h1, h2, h3, this, h4]

theorem readByte_writeBytes_outside (m : Memory) (a : Nat) (l : List Byte) (x : Nat) (h : x < a ∨ a + l.length ≤ x) :
    readByte (writeBytes m a l) x = readByte m x := by
  rw [readByte_writeBytes, if_neg (by omega)]

theorem mem_cellsFrom {a : Nat} {l : List Byte} {x : Host.Cell} (h : x ∈ cellsFrom a l) : a ≤ x.1 ∧ x.1 < a + l.length := by
  induction l generalizing a with
  | nil => simp [cellsFrom] at h
  | cons v l ih =>
    simp only [cellsFrom, List.mem_cons] at h
    rcases h with rfl | h
    · simp
    · have := ih h
      simp only [List.length_cons]
      omega

theorem cellsFrom_pairwise (a : Nat) (l : List Byte) : (cellsFrom a l).Pairwise fun x y => x.1 < y.1 := by
  induction l generalizing a with
  | nil => simp [cellsFrom]
  | cons v l ih =>
    refine List.Pairwise.cons (fun y hy => ?_) (ih (a + 1))
    have := mem_cellsFrom hy
    simp only
    omega

/-- A write inside the capacity keeps the canonical form. -/
theorem writeBytes_wf {cap : Nat} {m : Memory} (h : Memory.wf cap m) {a : Nat} {l : List Byte}
    (ha : l = [] ∨ a + l.length ≤ cap) : Memory.wf cap (writeBytes m a l) := by
  obtain ⟨hp, hc⟩ := h
  refine ⟨?_, fun x hx => ?_⟩
  · simp only [writeBytes]
    refine List.pairwise_append.2 ⟨List.pairwise_append.2 ⟨hp.filter _, cellsFrom_pairwise a l, fun x hx y hy => ?_⟩,
      hp.filter _, fun x hx y hy => ?_⟩
    · simp only [List.mem_filter, decide_eq_true_eq] at hx
      have := mem_cellsFrom hy
      omega
    · simp only [List.mem_filter, decide_eq_true_eq] at hy
      rcases List.mem_append.1 hx with hx | hx
      · simp only [List.mem_filter, decide_eq_true_eq] at hx
        omega
      · have := mem_cellsFrom hx
        omega
  · simp only [writeBytes, List.mem_append, List.mem_filter] at hx
    rcases hx with (hx | hx) | hx
    · exact hc x hx.1
    · have := mem_cellsFrom hx
      rcases ha with rfl | ha
      · simp [cellsFrom] at hx
      · omega
    · exact hc x hx.1

/-- Two canonical buffers with the same readable bytes are equal data. -/
theorem memory_ext {cap : Nat} {m m' : Memory} (h : Memory.wf cap m) (h' : Memory.wf cap m')
    (e : ∀ a, readByte m a = readByte m' a) : m = m' := by
  have lt_none : ∀ (r : Memory) (k : Nat), (∀ y ∈ r, k < y.1) → ∀ a, a ≤ k → readByte r a = none := fun r k hr a ha =>
    readByte_eq_none fun y hy => by have := hr y hy; omega
  obtain ⟨h, -⟩ := h
  obtain ⟨h', -⟩ := h'
  induction m generalizing m' with
  | nil =>
    cases m' with
    | nil => rfl
    | cons y r' => have := e y.1; simp [readByte] at this
  | cons x r ih =>
    cases m' with
    | nil => have := e x.1; simp [readByte] at this
    | cons y r' =>
      obtain ⟨k, v⟩ := x
      obtain ⟨k', v'⟩ := y
      obtain ⟨hx, hr⟩ := List.pairwise_cons.1 h
      obtain ⟨hy, hr'⟩ := List.pairwise_cons.1 h'
      have hk : k = k' := by
        rcases Nat.lt_trichotomy k k' with hlt | heq | hgt
        · have := e k
          simp only [readByte, if_true] at this
          rw [if_neg (by omega), lt_none r' k' hy k (by omega)] at this
          cases this
        · exact heq
        · have := e k'
          simp only [readByte, if_true] at this
          rw [if_neg (by omega), lt_none r k hx k' (by omega)] at this
          cases this
      subst hk
      have hv := e k
      simp only [readByte, if_true, Option.some.injEq] at hv
      subst hv
      congr 1
      refine ih (fun a => ?_) hr hr'
      by_cases ha : a ≤ k
      · rw [lt_none r k hx a ha, lt_none r' k hy a ha]
      · have := e a
        simp only [readByte] at this
        rwa [if_neg (by omega), if_neg (by omega)] at this

/-- Reading a region answers the list `l` exactly when each of its bytes holds the value `l` says (20_memory.md R65). -/
theorem readBytes_eq_some_iff {m : Memory} (h : m.Pairwise fun x y => x.1 < y.1) {a n : Nat} {l : List Byte} :
    readBytes m a n = some l ↔ l.length = n ∧ ∀ i < n, readByte m (a + i) = l[i]? := by
  induction m generalizing a n l with
  | nil =>
    cases n with
    | zero => cases l <;> simp [readBytes]
    | succ n =>
      simp only [readBytes, readByte, reduceCtorEq, false_iff, not_and]
      intro hl hf
      have := hf 0 (by omega)
      cases l <;> simp_all
  | cons x m ih =>
    obtain ⟨k, v⟩ := x
    obtain ⟨hx, hm⟩ := List.pairwise_cons.1 h
    have later : ∀ b, b ≤ k → readByte m b = none := fun b hb =>
      readByte_eq_none fun y hy => by have := hx y hy; simp only at this; omega
    cases n with
    | zero => cases l <;> simp [readBytes]
    | succ n =>
      simp only [readBytes]
      split_ifs with h1 h2
      · subst h1
        cases l with
        | nil => simp
        | cons w l =>
          simp only [Option.map_eq_some_iff, List.cons.injEq, List.length_cons, Nat.add_right_cancel_iff]
          constructor
          · rintro ⟨l', hl', rfl, rfl⟩
            obtain ⟨hlen, hb⟩ := (ih hm).1 hl'
            refine ⟨hlen, fun i hi => ?_⟩
            cases i with
            | zero => simp [readByte]
            | succ i =>
              have := hb i (by omega)
              simp only [readByte]
              rw [if_neg (by omega)]
              simpa [Nat.add_assoc, Nat.add_comm 1] using this
          · rintro ⟨hlen, hb⟩
            have h0 := hb 0 (by omega)
            simp only [readByte, Nat.add_zero, if_true, List.getElem?_cons_zero, Option.some.injEq] at h0
            refine ⟨l, (ih hm).2 ⟨hlen, fun i hi => ?_⟩, h0, rfl⟩
            have := hb (i + 1) (by omega)
            simp only [readByte] at this
            rw [if_neg (by omega)] at this
            simpa [Nat.add_assoc, Nat.add_comm 1] using this
      · rw [ih hm]
        refine and_congr_right fun _ => forall₂_congr fun i _ => ?_
        simp only [readByte]
        rw [if_neg (by omega)]
      · simp only [false_iff, not_and]
        intro hl hb
        have := hb 0 (by omega)
        simp only [readByte, Nat.add_zero, h1, if_false, later a (by omega)] at this
        cases l <;> simp_all

theorem readBytes_length {m : Memory} {a n : Nat} {l : List Byte} (h : readBytes m a n = some l) : l.length = n := by
  induction m generalizing a n l with
  | nil => cases n <;> simp_all [readBytes]
  | cons x m ih =>
    obtain ⟨k, v⟩ := x
    cases n with
    | zero => simp_all [readBytes]
    | succ n =>
      simp only [readBytes] at h
      split_ifs at h with h1 h2
      · obtain ⟨l', hl', rfl⟩ := Option.map_eq_some_iff.1 h
        simp [ih hl']
      · exact ih h

/-- What was written is what is read back. -/
theorem readBytes_writeBytes {cap : Nat} {m : Memory} (h : Memory.wf cap m) (a : Nat) (l : List Byte)
    (ha : l = [] ∨ a + l.length ≤ cap) : readBytes (writeBytes m a l) a l.length = some l := by
  refine (readBytes_eq_some_iff (writeBytes_wf h ha).1).2 ⟨rfl, fun i hi => ?_⟩
  rw [readByte_writeBytes, if_pos ⟨by omega, by omega⟩]
  simp

theorem readBytes_zero (m : Memory) (a : Nat) : readBytes m a 0 = some [] := by cases m <;> rfl

end Sys2Proof.Machine
end

