-- ==== Sys2Proof/Laws/State.lean ====
section
/-! SUPPORT. One lemma per field and named update of the state, so that no later proof unfolds a record update. -/

namespace Sys2Proof.Machine

@[simp] theorem State.setFlag_pos (s : State) (f : Flag) (b : Bool) : (s.setFlag f b).pos = s.pos := rfl
@[simp] theorem State.setFlag_endPos (s : State) (f : Flag) (b : Bool) : (s.setFlag f b).endPos = s.endPos := rfl
@[simp] theorem State.setFlag_len (s : State) (f : Flag) (b : Bool) : (s.setFlag f b).len = s.len := rfl
@[simp] theorem State.setFlag_cycs (s : State) (f : Flag) (b : Bool) : (s.setFlag f b).cycs = s.cycs := rfl
@[simp] theorem State.setFlag_cycl (s : State) (f : Flag) (b : Bool) : (s.setFlag f b).cycl = s.cycl := rfl
@[simp] theorem State.setFlag_track (s : State) (f : Flag) (b : Bool) : (s.setFlag f b).track = s.track := rfl
@[simp] theorem State.setFlag_sector (s : State) (f : Flag) (b : Bool) : (s.setFlag f b).sector = s.sector := rfl
@[simp] theorem State.setFlag_id0 (s : State) (f : Flag) (b : Bool) : (s.setFlag f b).id0 = s.id0 := rfl
@[simp] theorem State.setFlag_id1 (s : State) (f : Flag) (b : Bool) : (s.setFlag f b).id1 = s.id1 := rfl
@[simp] theorem State.setFlag_inj (s : State) (f : Flag) (b : Bool) : (s.setFlag f b).inj = s.inj := rfl
@[simp] theorem State.setFlag_zflags (s : State) (f : Flag) (b : Bool) : (s.setFlag f b).zflags = s.zflags := rfl
@[simp] theorem State.setFlag_target (s : State) (f : Flag) (b : Bool) : (s.setFlag f b).target = s.target := rfl
@[simp] theorem State.setFlag_runbyte (s : State) (f : Flag) (b : Bool) : (s.setFlag f b).runbyte = s.runbyte := rfl
@[simp] theorem State.setFlag_minrun (s : State) (f : Flag) (b : Bool) : (s.setFlag f b).minrun = s.minrun := rfl
@[simp] theorem State.setFlag_bufsel (s : State) (f : Flag) (b : Bool) : (s.setFlag f b).bufsel = s.bufsel := rfl
@[simp] theorem State.setFlag_p0 (s : State) (f : Flag) (b : Bool) : (s.setFlag f b).p0 = s.p0 := rfl
@[simp] theorem State.setFlag_p1 (s : State) (f : Flag) (b : Bool) : (s.setFlag f b).p1 = s.p1 := rfl
@[simp] theorem State.setFlag_p2 (s : State) (f : Flag) (b : Bool) : (s.setFlag f b).p2 = s.p2 := rfl
@[simp] theorem State.setFlag_p3 (s : State) (f : Flag) (b : Bool) : (s.setFlag f b).p3 = s.p3 := rfl
@[simp] theorem State.setFlag_g0 (s : State) (f : Flag) (b : Bool) : (s.setFlag f b).g0 = s.g0 := rfl
@[simp] theorem State.setFlag_g1 (s : State) (f : Flag) (b : Bool) : (s.setFlag f b).g1 = s.g1 := rfl
@[simp] theorem State.setFlag_g2 (s : State) (f : Flag) (b : Bool) : (s.setFlag f b).g2 = s.g2 := rfl
@[simp] theorem State.setFlag_g3 (s : State) (f : Flag) (b : Bool) : (s.setFlag f b).g3 = s.g3 := rfl
@[simp] theorem State.setFlag_g4 (s : State) (f : Flag) (b : Bool) : (s.setFlag f b).g4 = s.g4 := rfl
@[simp] theorem State.setFlag_res (s : State) (f : Flag) (b : Bool) : (s.setFlag f b).res = s.res := rfl
@[simp] theorem State.setFlag_valid (s : State) (f : Flag) (b : Bool) : (s.setFlag f b).valid = s.valid := rfl
@[simp] theorem State.setFlag_err (s : State) (f : Flag) (b : Bool) : (s.setFlag f b).err = s.err := rfl
@[simp] theorem State.setFlag_strat (s : State) (f : Flag) (b : Bool) : (s.setFlag f b).strat = s.strat := rfl
@[simp] theorem State.setFlag_outlen (s : State) (f : Flag) (b : Bool) : (s.setFlag f b).outlen = s.outlen := rfl
@[simp] theorem State.setFlag_padbits (s : State) (f : Flag) (b : Bool) : (s.setFlag f b).padbits = s.padbits := rfl
@[simp] theorem State.setFlag_tag (s : State) (f : Flag) (b : Bool) : (s.setFlag f b).tag = s.tag := rfl
@[simp] theorem State.setFlag_cmd (s : State) (f : Flag) (b : Bool) : (s.setFlag f b).cmd = s.cmd := rfl
@[simp] theorem State.setFlag_faultc (s : State) (f : Flag) (b : Bool) : (s.setFlag f b).faultc = s.faultc := rfl
@[simp] theorem State.setFlag_capmin (s : State) (f : Flag) (b : Bool) : (s.setFlag f b).capmin = s.capmin := rfl
@[simp] theorem State.setFlag_cap (s : State) (f : Flag) (b : Bool) : (s.setFlag f b).cap = s.cap := rfl
@[simp] theorem State.setFlag_capmax (s : State) (f : Flag) (b : Bool) : (s.setFlag f b).capmax = s.capmax := rfl
@[simp] theorem State.setFlag_allow (s : State) (f : Flag) (b : Bool) : (s.setFlag f b).allow = s.allow := rfl
@[simp] theorem State.setFlag_gaplen (s : State) (f : Flag) (b : Bool) : (s.setFlag f b).gaplen = s.gaplen := rfl
@[simp] theorem State.setFlag_fixgcr (s : State) (f : Flag) (b : Bool) : (s.setFlag f b).fixgcr = s.fixgcr := rfl
@[simp] theorem State.setFlag_alignovr (s : State) (f : Flag) (b : Bool) : (s.setFlag f b).alignovr = s.alignovr := rfl
@[simp] theorem State.setFlag_tb (s : State) (f : Flag) (b : Bool) : (s.setFlag f b).tb = s.tb := rfl
@[simp] theorem State.setFlag_wb (s : State) (f : Flag) (b : Bool) : (s.setFlag f b).wb = s.wb := rfl
@[simp] theorem State.setFlag_sb (s : State) (f : Flag) (b : Bool) : (s.setFlag f b).sb = s.sb := rfl
@[simp] theorem State.setFlag_host (s : State) (f : Flag) (b : Bool) : (s.setFlag f b).host = s.host := rfl
@[simp] theorem State.setFlag_hostData (s : State) (f : Flag) (b : Bool) : (s.setFlag f b).hostData = s.hostData := rfl
@[simp] theorem State.setFlag_drawn (s : State) (f : Flag) (b : Bool) : (s.setFlag f b).drawn = s.drawn := rfl
@[simp] theorem State.setFlag_status (s : State) (f : Flag) (b : Bool) : (s.setFlag f b).status = withFlag s.status f b := rfl

@[simp] theorem raiseFault_pos (c : FaultCode) (s : State) : (raiseFault c s).pos = s.pos := rfl
@[simp] theorem raiseFault_endPos (c : FaultCode) (s : State) : (raiseFault c s).endPos = s.endPos := rfl
@[simp] theorem raiseFault_len (c : FaultCode) (s : State) : (raiseFault c s).len = s.len := rfl
@[simp] theorem raiseFault_cycs (c : FaultCode) (s : State) : (raiseFault c s).cycs = s.cycs := rfl
@[simp] theorem raiseFault_cycl (c : FaultCode) (s : State) : (raiseFault c s).cycl = s.cycl := rfl
@[simp] theorem raiseFault_track (c : FaultCode) (s : State) : (raiseFault c s).track = s.track := rfl
@[simp] theorem raiseFault_sector (c : FaultCode) (s : State) : (raiseFault c s).sector = s.sector := rfl
@[simp] theorem raiseFault_id0 (c : FaultCode) (s : State) : (raiseFault c s).id0 = s.id0 := rfl
@[simp] theorem raiseFault_id1 (c : FaultCode) (s : State) : (raiseFault c s).id1 = s.id1 := rfl
@[simp] theorem raiseFault_inj (c : FaultCode) (s : State) : (raiseFault c s).inj = s.inj := rfl
@[simp] theorem raiseFault_zflags (c : FaultCode) (s : State) : (raiseFault c s).zflags = s.zflags := rfl
@[simp] theorem raiseFault_target (c : FaultCode) (s : State) : (raiseFault c s).target = s.target := rfl
@[simp] theorem raiseFault_runbyte (c : FaultCode) (s : State) : (raiseFault c s).runbyte = s.runbyte := rfl
@[simp] theorem raiseFault_minrun (c : FaultCode) (s : State) : (raiseFault c s).minrun = s.minrun := rfl
@[simp] theorem raiseFault_bufsel (c : FaultCode) (s : State) : (raiseFault c s).bufsel = s.bufsel := rfl
@[simp] theorem raiseFault_p0 (c : FaultCode) (s : State) : (raiseFault c s).p0 = s.p0 := rfl
@[simp] theorem raiseFault_p1 (c : FaultCode) (s : State) : (raiseFault c s).p1 = s.p1 := rfl
@[simp] theorem raiseFault_p2 (c : FaultCode) (s : State) : (raiseFault c s).p2 = s.p2 := rfl
@[simp] theorem raiseFault_p3 (c : FaultCode) (s : State) : (raiseFault c s).p3 = s.p3 := rfl
@[simp] theorem raiseFault_g0 (c : FaultCode) (s : State) : (raiseFault c s).g0 = s.g0 := rfl
@[simp] theorem raiseFault_g1 (c : FaultCode) (s : State) : (raiseFault c s).g1 = s.g1 := rfl
@[simp] theorem raiseFault_g2 (c : FaultCode) (s : State) : (raiseFault c s).g2 = s.g2 := rfl
@[simp] theorem raiseFault_g3 (c : FaultCode) (s : State) : (raiseFault c s).g3 = s.g3 := rfl
@[simp] theorem raiseFault_g4 (c : FaultCode) (s : State) : (raiseFault c s).g4 = s.g4 := rfl
@[simp] theorem raiseFault_res (c : FaultCode) (s : State) : (raiseFault c s).res = s.res := rfl
@[simp] theorem raiseFault_valid (c : FaultCode) (s : State) : (raiseFault c s).valid = s.valid := rfl
@[simp] theorem raiseFault_err (c : FaultCode) (s : State) : (raiseFault c s).err = s.err := rfl
@[simp] theorem raiseFault_strat (c : FaultCode) (s : State) : (raiseFault c s).strat = s.strat := rfl
@[simp] theorem raiseFault_outlen (c : FaultCode) (s : State) : (raiseFault c s).outlen = s.outlen := rfl
@[simp] theorem raiseFault_padbits (c : FaultCode) (s : State) : (raiseFault c s).padbits = s.padbits := rfl
@[simp] theorem raiseFault_tag (c : FaultCode) (s : State) : (raiseFault c s).tag = s.tag := rfl
@[simp] theorem raiseFault_cmd (c : FaultCode) (s : State) : (raiseFault c s).cmd = s.cmd := rfl
@[simp] theorem raiseFault_capmin (c : FaultCode) (s : State) : (raiseFault c s).capmin = s.capmin := rfl
@[simp] theorem raiseFault_cap (c : FaultCode) (s : State) : (raiseFault c s).cap = s.cap := rfl
@[simp] theorem raiseFault_capmax (c : FaultCode) (s : State) : (raiseFault c s).capmax = s.capmax := rfl
@[simp] theorem raiseFault_allow (c : FaultCode) (s : State) : (raiseFault c s).allow = s.allow := rfl
@[simp] theorem raiseFault_gaplen (c : FaultCode) (s : State) : (raiseFault c s).gaplen = s.gaplen := rfl
@[simp] theorem raiseFault_fixgcr (c : FaultCode) (s : State) : (raiseFault c s).fixgcr = s.fixgcr := rfl
@[simp] theorem raiseFault_alignovr (c : FaultCode) (s : State) : (raiseFault c s).alignovr = s.alignovr := rfl
@[simp] theorem raiseFault_tb (c : FaultCode) (s : State) : (raiseFault c s).tb = s.tb := rfl
@[simp] theorem raiseFault_wb (c : FaultCode) (s : State) : (raiseFault c s).wb = s.wb := rfl
@[simp] theorem raiseFault_sb (c : FaultCode) (s : State) : (raiseFault c s).sb = s.sb := rfl
@[simp] theorem raiseFault_host (c : FaultCode) (s : State) : (raiseFault c s).host = s.host := rfl
@[simp] theorem raiseFault_hostData (c : FaultCode) (s : State) : (raiseFault c s).hostData = s.hostData := rfl
@[simp] theorem raiseFault_drawn (c : FaultCode) (s : State) : (raiseFault c s).drawn = s.drawn := rfl
@[simp] theorem raiseFault_status (c : FaultCode) (s : State) : (raiseFault c s).status = withFlag (withFlag s.status .done false) .fault true := rfl
@[simp] theorem raiseFault_faultc (c : FaultCode) (s : State) : (raiseFault c s).faultc = if s.faultc = 0 then faultNumber c else s.faultc := rfl

@[simp] theorem State.setMem_pos (s : State) (b : Buf) (m : Memory) : (s.setMem b m).pos = s.pos := by cases b <;> rfl
@[simp] theorem State.setMem_endPos (s : State) (b : Buf) (m : Memory) : (s.setMem b m).endPos = s.endPos := by cases b <;> rfl
@[simp] theorem State.setMem_len (s : State) (b : Buf) (m : Memory) : (s.setMem b m).len = s.len := by cases b <;> rfl
@[simp] theorem State.setMem_cycs (s : State) (b : Buf) (m : Memory) : (s.setMem b m).cycs = s.cycs := by cases b <;> rfl
@[simp] theorem State.setMem_cycl (s : State) (b : Buf) (m : Memory) : (s.setMem b m).cycl = s.cycl := by cases b <;> rfl
@[simp] theorem State.setMem_track (s : State) (b : Buf) (m : Memory) : (s.setMem b m).track = s.track := by cases b <;> rfl
@[simp] theorem State.setMem_sector (s : State) (b : Buf) (m : Memory) : (s.setMem b m).sector = s.sector := by cases b <;> rfl
@[simp] theorem State.setMem_id0 (s : State) (b : Buf) (m : Memory) : (s.setMem b m).id0 = s.id0 := by cases b <;> rfl
@[simp] theorem State.setMem_id1 (s : State) (b : Buf) (m : Memory) : (s.setMem b m).id1 = s.id1 := by cases b <;> rfl
@[simp] theorem State.setMem_inj (s : State) (b : Buf) (m : Memory) : (s.setMem b m).inj = s.inj := by cases b <;> rfl
@[simp] theorem State.setMem_zflags (s : State) (b : Buf) (m : Memory) : (s.setMem b m).zflags = s.zflags := by cases b <;> rfl
@[simp] theorem State.setMem_target (s : State) (b : Buf) (m : Memory) : (s.setMem b m).target = s.target := by cases b <;> rfl
@[simp] theorem State.setMem_runbyte (s : State) (b : Buf) (m : Memory) : (s.setMem b m).runbyte = s.runbyte := by cases b <;> rfl
@[simp] theorem State.setMem_minrun (s : State) (b : Buf) (m : Memory) : (s.setMem b m).minrun = s.minrun := by cases b <;> rfl
@[simp] theorem State.setMem_bufsel (s : State) (b : Buf) (m : Memory) : (s.setMem b m).bufsel = s.bufsel := by cases b <;> rfl
@[simp] theorem State.setMem_p0 (s : State) (b : Buf) (m : Memory) : (s.setMem b m).p0 = s.p0 := by cases b <;> rfl
@[simp] theorem State.setMem_p1 (s : State) (b : Buf) (m : Memory) : (s.setMem b m).p1 = s.p1 := by cases b <;> rfl
@[simp] theorem State.setMem_p2 (s : State) (b : Buf) (m : Memory) : (s.setMem b m).p2 = s.p2 := by cases b <;> rfl
@[simp] theorem State.setMem_p3 (s : State) (b : Buf) (m : Memory) : (s.setMem b m).p3 = s.p3 := by cases b <;> rfl
@[simp] theorem State.setMem_g0 (s : State) (b : Buf) (m : Memory) : (s.setMem b m).g0 = s.g0 := by cases b <;> rfl
@[simp] theorem State.setMem_g1 (s : State) (b : Buf) (m : Memory) : (s.setMem b m).g1 = s.g1 := by cases b <;> rfl
@[simp] theorem State.setMem_g2 (s : State) (b : Buf) (m : Memory) : (s.setMem b m).g2 = s.g2 := by cases b <;> rfl
@[simp] theorem State.setMem_g3 (s : State) (b : Buf) (m : Memory) : (s.setMem b m).g3 = s.g3 := by cases b <;> rfl
@[simp] theorem State.setMem_g4 (s : State) (b : Buf) (m : Memory) : (s.setMem b m).g4 = s.g4 := by cases b <;> rfl
@[simp] theorem State.setMem_res (s : State) (b : Buf) (m : Memory) : (s.setMem b m).res = s.res := by cases b <;> rfl
@[simp] theorem State.setMem_valid (s : State) (b : Buf) (m : Memory) : (s.setMem b m).valid = s.valid := by cases b <;> rfl
@[simp] theorem State.setMem_err (s : State) (b : Buf) (m : Memory) : (s.setMem b m).err = s.err := by cases b <;> rfl
@[simp] theorem State.setMem_strat (s : State) (b : Buf) (m : Memory) : (s.setMem b m).strat = s.strat := by cases b <;> rfl
@[simp] theorem State.setMem_outlen (s : State) (b : Buf) (m : Memory) : (s.setMem b m).outlen = s.outlen := by cases b <;> rfl
@[simp] theorem State.setMem_padbits (s : State) (b : Buf) (m : Memory) : (s.setMem b m).padbits = s.padbits := by cases b <;> rfl
@[simp] theorem State.setMem_tag (s : State) (b : Buf) (m : Memory) : (s.setMem b m).tag = s.tag := by cases b <;> rfl
@[simp] theorem State.setMem_cmd (s : State) (b : Buf) (m : Memory) : (s.setMem b m).cmd = s.cmd := by cases b <;> rfl
@[simp] theorem State.setMem_status (s : State) (b : Buf) (m : Memory) : (s.setMem b m).status = s.status := by cases b <;> rfl
@[simp] theorem State.setMem_faultc (s : State) (b : Buf) (m : Memory) : (s.setMem b m).faultc = s.faultc := by cases b <;> rfl
@[simp] theorem State.setMem_capmin (s : State) (b : Buf) (m : Memory) : (s.setMem b m).capmin = s.capmin := by cases b <;> rfl
@[simp] theorem State.setMem_cap (s : State) (b : Buf) (m : Memory) : (s.setMem b m).cap = s.cap := by cases b <;> rfl
@[simp] theorem State.setMem_capmax (s : State) (b : Buf) (m : Memory) : (s.setMem b m).capmax = s.capmax := by cases b <;> rfl
@[simp] theorem State.setMem_allow (s : State) (b : Buf) (m : Memory) : (s.setMem b m).allow = s.allow := by cases b <;> rfl
@[simp] theorem State.setMem_gaplen (s : State) (b : Buf) (m : Memory) : (s.setMem b m).gaplen = s.gaplen := by cases b <;> rfl
@[simp] theorem State.setMem_fixgcr (s : State) (b : Buf) (m : Memory) : (s.setMem b m).fixgcr = s.fixgcr := by cases b <;> rfl
@[simp] theorem State.setMem_alignovr (s : State) (b : Buf) (m : Memory) : (s.setMem b m).alignovr = s.alignovr := by cases b <;> rfl
@[simp] theorem State.setMem_host (s : State) (b : Buf) (m : Memory) : (s.setMem b m).host = s.host := by cases b <;> rfl
@[simp] theorem State.setMem_hostData (s : State) (b : Buf) (m : Memory) : (s.setMem b m).hostData = s.hostData := by cases b <;> rfl
@[simp] theorem State.setMem_drawn (s : State) (b : Buf) (m : Memory) : (s.setMem b m).drawn = s.drawn := by cases b <;> rfl
@[simp] theorem State.mem_setMem (s : State) (b : Buf) (m : Memory) : (s.setMem b m).mem b = m := by cases b <;> rfl

theorem State.mem_setMem_ne (s : State) (b b' : Buf) (m : Memory) (h : b' ≠ b) : (s.setMem b m).mem b' = s.mem b' := by
  cases b <;> cases b' <;> first | rfl | exact absurd rfl h

@[simp] theorem State.mem_tb (s : State) : s.mem .tb = s.tb := rfl
@[simp] theorem State.setMem_eq_tb (s : State) (m : Memory) : s.setMem .tb m = { s with tb := m } := rfl
@[simp] theorem State.mem_wb (s : State) : s.mem .wb = s.wb := rfl
@[simp] theorem State.setMem_eq_wb (s : State) (m : Memory) : s.setMem .wb m = { s with wb := m } := rfl
@[simp] theorem State.mem_sb (s : State) : s.mem .sb = s.sb := rfl
@[simp] theorem State.setMem_eq_sb (s : State) (m : Memory) : s.setMem .sb m = { s with sb := m } := rfl

@[simp] theorem resetBlock_pos (s : State) : (resetBlock s).pos = State.reset.pos := rfl
@[simp] theorem resetBlock_endPos (s : State) : (resetBlock s).endPos = State.reset.endPos := rfl
@[simp] theorem resetBlock_len (s : State) : (resetBlock s).len = State.reset.len := rfl
@[simp] theorem resetBlock_cycs (s : State) : (resetBlock s).cycs = State.reset.cycs := rfl
@[simp] theorem resetBlock_cycl (s : State) : (resetBlock s).cycl = State.reset.cycl := rfl
@[simp] theorem resetBlock_track (s : State) : (resetBlock s).track = State.reset.track := rfl
@[simp] theorem resetBlock_sector (s : State) : (resetBlock s).sector = State.reset.sector := rfl
@[simp] theorem resetBlock_id0 (s : State) : (resetBlock s).id0 = State.reset.id0 := rfl
@[simp] theorem resetBlock_id1 (s : State) : (resetBlock s).id1 = State.reset.id1 := rfl
@[simp] theorem resetBlock_inj (s : State) : (resetBlock s).inj = State.reset.inj := rfl
@[simp] theorem resetBlock_zflags (s : State) : (resetBlock s).zflags = State.reset.zflags := rfl
@[simp] theorem resetBlock_target (s : State) : (resetBlock s).target = State.reset.target := rfl
@[simp] theorem resetBlock_runbyte (s : State) : (resetBlock s).runbyte = State.reset.runbyte := rfl
@[simp] theorem resetBlock_minrun (s : State) : (resetBlock s).minrun = State.reset.minrun := rfl
@[simp] theorem resetBlock_bufsel (s : State) : (resetBlock s).bufsel = State.reset.bufsel := rfl
@[simp] theorem resetBlock_p0 (s : State) : (resetBlock s).p0 = State.reset.p0 := rfl
@[simp] theorem resetBlock_p1 (s : State) : (resetBlock s).p1 = State.reset.p1 := rfl
@[simp] theorem resetBlock_p2 (s : State) : (resetBlock s).p2 = State.reset.p2 := rfl
@[simp] theorem resetBlock_p3 (s : State) : (resetBlock s).p3 = State.reset.p3 := rfl
@[simp] theorem resetBlock_g0 (s : State) : (resetBlock s).g0 = State.reset.g0 := rfl
@[simp] theorem resetBlock_g1 (s : State) : (resetBlock s).g1 = State.reset.g1 := rfl
@[simp] theorem resetBlock_g2 (s : State) : (resetBlock s).g2 = State.reset.g2 := rfl
@[simp] theorem resetBlock_g3 (s : State) : (resetBlock s).g3 = State.reset.g3 := rfl
@[simp] theorem resetBlock_g4 (s : State) : (resetBlock s).g4 = State.reset.g4 := rfl
@[simp] theorem resetBlock_res (s : State) : (resetBlock s).res = State.reset.res := rfl
@[simp] theorem resetBlock_valid (s : State) : (resetBlock s).valid = State.reset.valid := rfl
@[simp] theorem resetBlock_err (s : State) : (resetBlock s).err = State.reset.err := rfl
@[simp] theorem resetBlock_strat (s : State) : (resetBlock s).strat = State.reset.strat := rfl
@[simp] theorem resetBlock_outlen (s : State) : (resetBlock s).outlen = State.reset.outlen := rfl
@[simp] theorem resetBlock_padbits (s : State) : (resetBlock s).padbits = State.reset.padbits := rfl
@[simp] theorem resetBlock_tag (s : State) : (resetBlock s).tag = State.reset.tag := rfl
@[simp] theorem resetBlock_cmd (s : State) : (resetBlock s).cmd = State.reset.cmd := rfl
@[simp] theorem resetBlock_status (s : State) : (resetBlock s).status = State.reset.status := rfl
@[simp] theorem resetBlock_faultc (s : State) : (resetBlock s).faultc = State.reset.faultc := rfl
@[simp] theorem resetBlock_capmin (s : State) : (resetBlock s).capmin = State.reset.capmin := rfl
@[simp] theorem resetBlock_cap (s : State) : (resetBlock s).cap = State.reset.cap := rfl
@[simp] theorem resetBlock_capmax (s : State) : (resetBlock s).capmax = State.reset.capmax := rfl
@[simp] theorem resetBlock_allow (s : State) : (resetBlock s).allow = State.reset.allow := rfl
@[simp] theorem resetBlock_gaplen (s : State) : (resetBlock s).gaplen = State.reset.gaplen := rfl
@[simp] theorem resetBlock_fixgcr (s : State) : (resetBlock s).fixgcr = State.reset.fixgcr := rfl
@[simp] theorem resetBlock_alignovr (s : State) : (resetBlock s).alignovr = State.reset.alignovr := rfl
@[simp] theorem resetBlock_tb (s : State) : (resetBlock s).tb = State.reset.tb := rfl
@[simp] theorem resetBlock_wb (s : State) : (resetBlock s).wb = State.reset.wb := rfl
@[simp] theorem resetBlock_sb (s : State) : (resetBlock s).sb = State.reset.sb := rfl
@[simp] theorem resetBlock_host (s : State) : (resetBlock s).host = s.host := rfl
@[simp] theorem resetBlock_hostData (s : State) : (resetBlock s).hostData = s.hostData := rfl
@[simp] theorem resetBlock_drawn (s : State) : (resetBlock s).drawn = s.drawn := rfl

end Sys2Proof.Machine
end

