-- ==== Sys2Proof/Laws/Command.lean ====
section
/-! SUPPORT. What the shared operations of every command can do: one lemma each, to be cited instead of unfolding. -/

namespace Sys2Proof.Machine

/-- A bind of checks answers exactly when both parts do. -/
theorem bind_ok_iff {α β : Type} {x : Except FaultCode α} {f : α → Except FaultCode β} {b : β} :
    x >>= f = .ok b ↔ ∃ a, x = .ok a ∧ f a = .ok b := by
  cases x <;> simp [bind, Except.bind]

/-- A bind of checks fails exactly when its first part does or its second does. -/
theorem bind_error_iff {α β : Type} {x : Except FaultCode α} {f : α → Except FaultCode β} {c : FaultCode} :
    x >>= f = .error c ↔ x = .error c ∨ ∃ a, x = .ok a ∧ f a = .error c := by
  cases x <;> simp [bind, Except.bind]

/-- `MemRead` answers exactly when the region fits and every byte holds a value (20_memory.md R65). -/
theorem memRead_ok_iff {s : State} {b : Buf} {a n : Nat} {l : List Byte} :
    memRead s b a n = .ok l ↔ (n = 0 ∨ a + n ≤ bufCap b) ∧ readBytes (s.mem b) a n = some l := by
  unfold memRead
  by_cases h : n ≠ 0 ∧ bufCap b < a + n
  · rw [if_pos h]
    simp only [reduceCtorEq, false_iff, not_and]
    omega
  · rw [if_neg h]
    have h' : n = 0 ∨ a + n ≤ bufCap b := by omega
    cases hr : readBytes (s.mem b) a n <;> simp [h']

/-- `MemRead` faults `FLT_RANGE` where the region does not fit, else `FLT_UNINIT` where a byte holds no value. -/
theorem memRead_error_iff {s : State} {b : Buf} {a n : Nat} {c : FaultCode} :
    memRead s b a n = .error c ↔
      (c = .range ∧ n ≠ 0 ∧ bufCap b < a + n)
        ∨ (c = .uninit ∧ (n = 0 ∨ a + n ≤ bufCap b) ∧ readBytes (s.mem b) a n = none) := by
  unfold memRead
  by_cases h : n ≠ 0 ∧ bufCap b < a + n
  · rw [if_pos h]
    simp [h.1, h.2, eq_comm]
  · rw [if_neg h]
    have h' : n = 0 ∨ a + n ≤ bufCap b := by omega
    cases hr : readBytes (s.mem b) a n <;> simp [h, h', eq_comm]

theorem memRead_length {s : State} {b : Buf} {a n : Nat} {l : List Byte} (h : memRead s b a n = .ok l) : l.length = n :=
  readBytes_length (memRead_ok_iff.1 h).2

/-- A read sees only the buffer. -/
theorem memRead_congr {s t : State} {b : Buf} (h : s.mem b = t.mem b) (a n : Nat) : memRead s b a n = memRead t b a n := by
  simp only [memRead, h]

@[simp] theorem State.setFlag_mem (s : State) (f : Flag) (v : Bool) (b : Buf) : (s.setFlag f v).mem b = s.mem b := by
  cases b <;> rfl

@[simp] theorem memRead_setFlag (s : State) (f : Flag) (v : Bool) (b : Buf) (a n : Nat) :
    memRead (s.setFlag f v) b a n = memRead s b a n := memRead_congr (by simp) a n

@[simp] theorem readWindow_setFlag (s : State) (f : Flag) (v : Bool) : readWindow (s.setFlag f v) = readWindow s := by
  simp [readWindow]

/-- `MemWrite` answers exactly when the region fits, and then only that region of that buffer changes. -/
theorem memWrite_ok_iff {s t : State} {b : Buf} {a : Nat} {l : List Byte} :
    memWrite s b a l = .ok t ↔
      (l = [] ∨ a + l.length ≤ bufCap b) ∧ t = s.setMem b (writeBytes (s.mem b) a l) := by
  unfold memWrite
  by_cases h : l ≠ [] ∧ bufCap b < a + l.length
  · simp [h]
  · have h' : l = [] ∨ a + l.length ≤ bufCap b := by
      by_cases hl : l = []
      · exact .inl hl
      · exact .inr (by by_contra hc; exact h ⟨hl, by omega⟩)
    rw [if_neg h]
    simp [h', eq_comm]

/-- The cycle window is read exactly when it lies inside TB and every byte of it holds a value. -/
theorem readWindow_ok_iff {s : State} {l : List Byte} :
    readWindow s = .ok l ↔
      s.cycs.toNat + s.cycl.toNat ≤ tbCap ∧ readBytes s.tb s.cycs.toNat s.cycl.toNat = some l := by
  unfold readWindow
  by_cases h : tbCap < s.cycs.toNat + s.cycl.toNat
  · rw [if_pos h]
    simp only [reduceCtorEq, false_iff, not_and]
    intro h'
    exact absurd h' (Nat.not_le.2 h)
  · rw [if_neg h, memRead_ok_iff]
    have h' : s.cycs.toNat + s.cycl.toNat ≤ tbCap := Nat.not_lt.1 h
    simp [h', bufCap]

/-- A faulted block ignores a command (60_exceptions.md R249). -/
theorem runCommand_of_fault {rule : State → Except FaultCode State} {s : State} (h : s.flag .fault = true) :
    runCommand rule s = .next s := by simp [runCommand, h]

/-- A command whose rule answers completes (30_encoding.md R83). -/
theorem runCommand_of_ok {rule : State → Except FaultCode State} {s t : State} (h : s.flag .fault = false)
    (e : rule (s.setFlag .done false) = .ok t) : runCommand rule s = .next (t.setFlag .done true) := by
  simp [runCommand, h, e]

/-- A command whose rule faults takes the fault (60_exceptions.md R241). -/
theorem runCommand_of_error {rule : State → Except FaultCode State} {s : State} {c : FaultCode} (h : s.flag .fault = false)
    (e : rule (s.setFlag .done false) = .error c) : runCommand rule s = .next (faulted (faultNumber c) s) := by
  simp only [runCommand, h, e, Bool.false_eq_true, if_false, Host.Outcome.next.injEq]
  simp only [raiseFault, State.setFlag, faulted, withFlag_done_fault]

/-- Everything a command can do (30_encoding.md R83): be ignored, take a fault, or complete. -/
theorem runCommand_cases (rule : State → Except FaultCode State) (s : State) :
    (s.flag .fault = true ∧ runCommand rule s = .next s)
      ∨ (s.flag .fault = false ∧ ∃ c, rule (s.setFlag .done false) = .error c
          ∧ runCommand rule s = .next (faulted (faultNumber c) s))
      ∨ (s.flag .fault = false ∧ ∃ t, rule (s.setFlag .done false) = .ok t
          ∧ runCommand rule s = .next (t.setFlag .done true)) := by
  cases hf : s.flag .fault
  · cases he : rule (s.setFlag .done false) with
    | error c => exact .inr (.inl ⟨rfl, c, rfl, runCommand_of_error hf he⟩)
    | ok t => exact .inr (.inr ⟨rfl, t, rfl, runCommand_of_ok hf he⟩)
  · exact .inl ⟨rfl, runCommand_of_fault hf⟩

/-- What a search command changes when it completes (41_bitstream_scanner.md R140). -/
theorem searchCommand_ok {find : List Byte → Option Nat} {s t : State} (h : searchCommand find s = .ok t) :
    s.pos ≤ s.endPos ∧ s.endPos.toNat ≤ bufCap s.selected
      ∧ ∃ l, readBytes (s.mem s.selected) s.pos.toNat (s.endPos.toNat - s.pos.toNat) = some l
        ∧ ((∃ q, find l = some q ∧ t = { s.setFlag .found true with
              res := BitVec.ofNat 16 (s.pos.toNat + q), pos := BitVec.ofNat 16 (s.pos.toNat + q) })
          ∨ (find l = none ∧ t = { s.setFlag .found false with res := s.endPos, pos := s.endPos })) := by
  unfold searchCommand at h
  split at h
  · simp at h
  · rename_i hc
    rw [not_not] at hc
    obtain ⟨l, hl, h⟩ := bind_ok_iff.1 h
    refine ⟨hc.1, hc.2, l, (memRead_ok_iff.1 hl).2, ?_⟩
    cases hq : find l <;> simp only [hq, Except.ok.injEq] at h
    · exact .inr ⟨rfl, h.symm⟩
    · exact .inl ⟨_, rfl, h.symm⟩

/-- What a reducer command changes when it completes (44_neighbour_units.md R220). -/
theorem reduceCommand_ok {f : List Byte → List Byte} {s t : State} (h : reduceCommand f s = .ok t) :
    s.len.toNat ≤ tbCap
      ∧ ∃ l, readBytes s.tb 0 s.len.toNat = some l ∧ (f l = [] ∨ (f l).length ≤ tbCap)
        ∧ t = { s with
            tb := writeBytes s.tb 0 (f l)
            len := BitVec.ofNat 16 (f l).length
            outlen := BitVec.ofNat 16 (f l).length } := by
  unfold reduceCommand at h
  split at h
  · simp at h
  · rename_i hc
    obtain ⟨l, hl, h⟩ := bind_ok_iff.1 h
    obtain ⟨u, hu, h⟩ := bind_ok_iff.1 h
    obtain ⟨hw, rfl⟩ := memWrite_ok_iff.1 hu
    simp only [Except.ok.injEq] at h
    exact ⟨Nat.not_lt.1 hc, l, (memRead_ok_iff.1 hl).2, by simpa [bufCap] using hw, h.symm⟩

end Sys2Proof.Machine
end

