-- ==== Sys2Proof/Laws/Dispatch.lean ====
section
/-! SUPPORT. What exec, the CMD write and a step can do, said once. -/

namespace Sys2Proof.Machine

/-- A command but SRESET is its rule, run by the dispatch (30_encoding.md R83). -/
theorem execUnder_eq_runCommand {c : Config} {i : Instr} (h : i ≠ .sreset) (s : State) :
    execUnder c i s = runCommand (ruleUnder c i) s := if_neg h

/-- At the machine's parameters the commands are exec's (10_state.md R36). -/
@[simp] theorem execUnder_params (i : Instr) (s : State) : execUnder params i s = exec i s := by
  by_cases h : i = .sreset
  · subst h; rfl
  · rw [execUnder_eq_runCommand h]
    cases i <;> first | rfl | exact absurd rfl h

/-- Every command but SRESET is its rule, run by the dispatch (30_encoding.md R83). -/
theorem exec_eq_runCommand {i : Instr} (h : i ≠ .sreset) (s : State) : exec i s = runCommand (ruleUnder params i) s := by
  rw [← execUnder_params, execUnder_eq_runCommand h]

/-- SRESET is the reset under any parameters (60_exceptions.md R251). -/
@[simp] theorem execUnder_sreset (c : Config) (s : State) : execUnder c .sreset s = .next (resetBlock s) := rfl

@[simp] theorem exec_sreset (s : State) : exec .sreset s = .next (resetBlock s) := rfl

/-- Everything a command but SRESET can do: be ignored, take a fault, or complete (30_encoding.md R83). -/
theorem exec_cases {i : Instr} (h : i ≠ .sreset) (s : State) :
    (s.flag .fault = true ∧ exec i s = .next s)
      ∨ (s.flag .fault = false ∧ ∃ c, ruleUnder params i (s.setFlag .done false) = .error c
          ∧ exec i s = .next (faulted (faultNumber c) s))
      ∨ (s.flag .fault = false ∧ ∃ t, ruleUnder params i (s.setFlag .done false) = .ok t
          ∧ exec i s = .next (t.setFlag .done true)) := by
  rw [exec_eq_runCommand h]
  exact runCommand_cases _ s

/-- Only 0xFF decodes to SRESET (30_encoding.md R82). -/
theorem decode_ne_sreset {c : Config} {op : Byte} {i : Instr} (h : op ≠ 0xFF) (hd : decode c op = .ok i) : i ≠ .sreset := by
  rintro rfl
  have key : ∀ op : Byte, opcodeMap op = some .sreset → op = 0xFF := by decide +kernel
  unfold decode at hd
  split at hd
  · simp at hd
  · rename_i j hj
    split at hd
    · simp only [Except.ok.injEq] at hd
      exact h (key op (hd ▸ hj))
    · simp at hd

/-- A number of eight bits is decoded as its byte (30_encoding.md R80, R83). -/
theorem decodeWrite_of_lt {c : Config} {n : Nat} (h : n < 256) : decodeWrite c n = decode c (BitVec.ofNat 8 n) := if_pos h

/-- A number above 255 is no command (30_encoding.md R83). -/
theorem decodeWrite_of_le {c : Config} {n : Nat} (h : 256 ≤ n) : decodeWrite c n = .error .illegalOpcode :=
  if_neg (by omega)

/-- Only 0xFF, compared whole, is SRESET (30_encoding.md R83). -/
theorem decodeWrite_ne_sreset {c : Config} {n : Nat} {i : Instr} (h : n ≠ 0xFF) (hd : decodeWrite c n = .ok i) :
    i ≠ .sreset := by
  by_cases hn : n < 256
  · rw [decodeWrite_of_lt hn] at hd
    exact decode_ne_sreset (by bv_omega) hd
  · simp [decodeWrite_of_le (Nat.le_of_not_lt hn)] at hd

/-- Everything a CMD write other than SRESET does: some rule is run on the state whose CMD holds the low bits
(30_encoding.md R83). -/
theorem startCommand_eq {c : Config} {n : Nat} (h : n ≠ 0xFF) (s : State) :
    ∃ rule, startCommand c n s = runCommand rule { s with cmd := BitVec.ofNat 8 n } := by
  unfold startCommand
  split
  · rename_i i hi
    exact ⟨_, execUnder_eq_runCommand (decodeWrite_ne_sreset h hi) _⟩
  · exact ⟨_, rfl⟩

/-- Every step answers a next state. -/
theorem step_next (s : State) : ∃ t, step s = .next t := by
  have run (rule : State → Except FaultCode State) (s : State) : ∃ t, runCommand rule s = .next t := by
    obtain ⟨-, h⟩ | ⟨-, _, -, h⟩ | ⟨-, _, -, h⟩ := runCommand_cases rule s <;> exact ⟨_, h⟩
  have ex (c : Config) (i : Instr) (s : State) : ∃ t, execUnder c i s = .next t := by
    by_cases h : i = .sreset
    · exact h ▸ ⟨_, rfl⟩
    · exact execUnder_eq_runCommand h s ▸ run _ s
  unfold step nextMove
  split
  · exact ⟨_, rfl⟩
  · unfold hostMove
    split
    · exact ⟨_, rfl⟩
    · exact ⟨_, rfl⟩
    · split
      · unfold startCommand
        split
        · exact ex _ _ _
        · exact run _ _
      · exact ⟨_, rfl⟩

end Sys2Proof.Machine
end

