-- ==== Sys2Proof/Laws/PerInstr.lean ====
section
/-! SUPPORT. Statements made per command: the family OpcodeWord, that a present command's opcode decodes to it under every
parameters (30_encoding.md R82, R84). -/

namespace Sys2Proof.Laws.OpcodeWord

/-- The opcode of `i` decodes to `i` wherever the unit of `i` is present, and is rejected by name where it is absent. -/
def Statement (i : Instr) : Prop :=
  ∀ c : Config, decode c (encode i) = if WellFormed c i then .ok i else .error .unitAbsent

theorem nop : Statement .nop := fun _ => rfl
theorem enc4 : Statement .enc4 := fun _ => rfl
theorem dec4 : Statement .dec4 := fun _ => rfl
theorem encsec : Statement .encsec := fun _ => rfl
theorem decsec : Statement .decsec := fun _ => rfl
theorem fsync : Statement .fsync := fun _ => rfl
theorem fhdr : Statement .fhdr := fun _ => rfl
theorem badgcr : Statement .badgcr := fun _ => rfl
theorem syncflg : Statement .syncflg := fun _ => rfl
theorem cycdet : Statement .cycdet := fun _ => rfl
theorem isshift : Statement .isshift := fun _ => rfl
theorem alignbs : Statement .alignbs := fun _ => rfl
theorem alignsel : Statement .alignsel := fun _ => rfl
theorem redrun : Statement .redrun := fun _ => rfl
theorem redgap : Statement .redgap := fun _ => rfl
theorem reduce : Statement .reduce := fun _ => rfl
theorem sreset : Statement .sreset := fun _ => rfl

end Sys2Proof.Laws.OpcodeWord
end

