-- ==== Sys2Proof/Laws/Scanner.lean ====
section
/-! SUPPORT. The scans of U2: where a result can lie, and that the loops never run out of turns
(41_bitstream_scanner.md R142, R144). -/

namespace Sys2Proof.Machine

/-- The tail of a sync ends at the first byte that is not 0xFF, all before it being 0xFF. -/
theorem syncTail_eq_some_iff {l : List Byte} {q r : Nat} :
    syncTail l q = some r ↔
      q ≤ r ∧ r < q + l.length ∧ (∀ k, k < r - q → l.getD k 0 = syncByte) ∧ l.getD (r - q) 0 ≠ syncByte := by
  induction l generalizing q with
  | nil => simp only [syncTail, reduceCtorEq, List.length_nil, false_iff]; omega
  | cons b l ih =>
    by_cases hb : b = syncByte
    · simp only [syncTail, hb, if_true, ih, List.length_cons]
      constructor
      · rintro ⟨h1, h2, h3, h4⟩
        have e : r - q = (r - (q + 1)) + 1 := by omega
        refine ⟨by omega, by omega, fun k hk => ?_, by rw [e]; simpa using h4⟩
        cases k with
        | zero => rfl
        | succ k => simpa using h3 k (by omega)
      · rintro ⟨h1, h2, h3, h4⟩
        have hne : r ≠ q := by rintro rfl; simp at h4
        have e : r - q = (r - (q + 1)) + 1 := by omega
        refine ⟨by omega, by omega, fun k hk => by simpa using h3 (k + 1) (by omega), ?_⟩
        rw [e] at h4; simpa using h4
    · simp only [syncTail, hb, if_false, Option.some.injEq, List.length_cons]
      constructor
      · rintro rfl; exact ⟨by omega, by omega, by intro k hk; omega, by simpa [syncByte] using hb⟩
      · rintro ⟨h1, h2, h3, h4⟩
        by_contra hne
        have h0 := h3 0 (by omega)
        simp only [List.getD_cons_zero] at h0
        exact hb h0

/-- A sync found by the scan ends at least two bytes further, inside the range (41_bitstream_scanner.md R142). -/
theorem syncScan_bounds {l : List Byte} {p q : Nat} (h : syncScan l p = some q) : p + 2 ≤ q ∧ q < p + l.length := by
  induction l generalizing p with
  | nil => simp [syncScan] at h
  | cons b0 l ih =>
    cases l with
    | nil => simp [syncScan] at h
    | cons b1 r =>
      simp only [syncScan] at h
      split_ifs at h with hm
      · obtain ⟨h1, h2, -, h4⟩ := syncTail_eq_some_iff.1 h
        have : q ≠ p + 1 := by
          rintro rfl
          simp [hm.2] at h4
        simp only [List.length_cons] at h2 ⊢
        omega
      · have := ih h
        simp only [List.length_cons] at this ⊢
        omega

/-- A sync found by FSYNC ends at least two bytes past the cursor and before the end of the range
(41_bitstream_scanner.md R142). -/
theorem fsync_bounds {B : List Byte} {pos stop q : Nat} (h : fsync B pos stop = some q) :
    pos + 2 ≤ q ∧ q < stop ∧ q < B.length := by
  have := syncScan_bounds h
  simp only [List.length_drop, List.length_take] at this
  omega

/-- A range of fewer than two bytes holds no sync (41_bitstream_scanner.md R142). -/
theorem fsync_short (B : List Byte) {pos stop : Nat} (h : stop < pos + 2) : fsync B pos stop = none := by
  cases e : fsync B pos stop with
  | none => rfl
  | some q => have := fsync_bounds e; omega

theorem fhdrLoop_bounds {B : List Byte} {stop fuel p q : Nat} (h : fhdrLoop B stop fuel p = some q) :
    p + 3 ≤ q ∧ q ≤ stop ∧ q ≤ B.length := by
  induction fuel generalizing p with
  | zero => simp [fhdrLoop] at h
  | succ n ih =>
    simp only [fhdrLoop] at h
    split at h
    · simp at h
    · rename_i a ha
      have := fsync_bounds ha
      split_ifs at h with hm
      · simp only [Option.some.injEq] at h; omega
      · have := ih h; omega

/-- A header mark found by FHDR ends at least three bytes past the cursor and may be the end of the range
(41_bitstream_scanner.md R144). -/
theorem fhdr_bounds {B : List Byte} {pos stop q : Nat} (h : fhdr B pos stop = some q) :
    pos + 3 ≤ q ∧ q ≤ stop ∧ q ≤ B.length := fhdrLoop_bounds h

/-- The turns of FHDR's loop are enough: more of them change nothing. -/
theorem fhdrLoop_fuel {B : List Byte} {stop fuel p : Nat} (h : stop ≤ fuel + p + 1) :
    fhdrLoop B stop (fuel + 1) p = fhdrLoop B stop fuel p := by
  induction fuel generalizing p with
  | zero => simp [fhdrLoop, fsync_short B (show stop < p + 2 by omega)]
  | succ n ih =>
    rw [fhdrLoop, fhdrLoop]
    cases e : fsync B p stop with
    | none => rfl
    | some q =>
      have := fsync_bounds e
      simp only
      rw [ih (by omega)]

/-- FHDR's loop read as the document writes it (41_bitstream_scanner.md R144). -/
theorem fhdr_eq (B : List Byte) (pos stop : Nat) :
    fhdr B pos stop =
      match fsync B pos stop with
      | none => none
      | some q => if B[q]? = some hdrMark then some (q + 1) else fhdr B q stop := by
  have step : fhdr B pos stop = fhdrLoop B stop (stop + 1) pos := (fhdrLoop_fuel (by omega)).symm
  rw [step]
  rfl

/-- One window test per position agrees with BADGCR at that position (41_bitstream_scanner.md R146). -/
theorem badFlags_getElem {B : List Byte} {p : Nat} (h : p < B.length) :
    (badFlags B)[p]? = some (badGcr B B.length p) := by
  unfold badFlags badGcr prevPos
  rw [List.getElem?_zipWith]
  cases p with
  | zero =>
    cases B with
    | nil => simp at h
    | cons b r => simp [List.getLastD_eq_getLast?, List.getLast?_eq_getElem?, List.getD_eq_getElem?_getD]
  | succ p =>
    have : p < B.length := by omega
    simp [List.getElem?_eq_getElem h, List.getElem?_eq_getElem this]

end Sys2Proof.Machine
end

