-- ==== Sys2Proof/Machine/Script.lean ====
section
/-! DEFINITION. The host command script (30_encoding.md R85): each line as the host moves it stands for. -/

namespace Sys2Proof.Machine

/-- A line of a command script (30_encoding.md R85); `command` is the opcode of a mnemonic line. -/
inductive ScriptLine where
  | wr (r : Reg) (v : Nat)
  | rd (r : Reg)
  | wrb (b : Buf) (a : Nat) (l : List Nat)
  | rdb (b : Buf) (a n : Nat)
  | command (op : Byte)
  | fill (b : Buf) (a n v : Nat)
  | copy (src : Buf) (a : Nat) (dst : Buf) (d n : Nat)
  | setcap (z : BitVec 2) (mn c mx : Nat)
  | setid (a b : Nat)
deriving DecidableEq, Repr

/-- `HostWrite(space, a+i, bi)` for each byte (30_encoding.md R85). -/
def writeMoves (b : Buf) : Nat → List Nat → List HostMove
  | _, [] => []
  | a, v :: l => .write (.buf b) a (.imm v) :: writeMoves b (a + 1) l

/-- The host moves of a script line (30_encoding.md R85). -/
def scriptMoves : ScriptLine → List HostMove
  | .wr r v => [.write .reg (regIndex r) (.imm v)]
  | .rd r => [.read .reg (regIndex r)]
  | .wrb b a l => writeMoves b a l
  | .rdb b a n => (List.range n).map fun i => .read (.buf b) (a + i)
  | .command op => [.write .reg (regIndex .cmd) (.imm op.toNat)]
  | .fill b a n v => writeMoves b a (List.replicate n v)
  | .copy src a dst d n => (List.range n).flatMap fun i => [.read (.buf src) (a + i), .write (.buf dst) (d + i) .lastRead]
  | .setcap z mn c mx =>
    [.write .reg (regIndex (.capmin z)) (.imm mn), .write .reg (regIndex (.cap z)) (.imm c),
      .write .reg (regIndex (.capmax z)) (.imm mx)]
  | .setid a b => [.write .reg (regIndex .id0) (.imm a), .write .reg (regIndex .id1) (.imm b)]

end Sys2Proof.Machine
end

