-- ==== Sys2Proof/Tests/Slice0.lean ====
section
/-! SUPPORT. The model's own tests, their expected results taken from 30_encoding.md R82 and the vectors of
95_test_vectors.md, and one named witness for the hypotheses of every statement of Certificates/Slice0/Obligations.lean. -/

namespace Sys2Proof.Tests

open Sys2Proof Sys2Proof.Machine

/-! ## Well-formedness and decoding -/

/-- The parameters of a block without U5. -/
def noU5 : Config := { params with hasU5 := false }

/-- 00_scope.md R12: the one check of WellFormed refuses each U5 command where U5 is absent, and no other. -/
theorem test_wellFormed_refuses_absent_unit :
    WellFormed noU5 .alignsel = false ∧ WellFormed noU5 .redrun = false ∧ WellFormed noU5 .redgap = false
      ∧ WellFormed noU5 .reduce = false ∧ WellFormed noU5 .cycdet = true ∧ WellFormed params .reduce = true := by decide

/-- 30_encoding.md R82, the words written out bit by bit, bit 7 first. -/
theorem test_decode_system : decodeTableWord 8 0b00000000 = some .nop ∧ decodeTableWord 8 0b11111111 = some .sreset := by
  decide

/-- 30_encoding.md R82, unit U1. -/
theorem test_decode_codec :
    decodeTableWord 8 0b00000001 = some .enc4 ∧ decodeTableWord 8 0b00000010 = some .dec4
      ∧ decodeTableWord 8 0b00000011 = some .encsec ∧ decodeTableWord 8 0b00000100 = some .decsec := by decide

/-- 30_encoding.md R82, unit U2. -/
theorem test_decode_scanner :
    decodeTableWord 8 0b00010000 = some .fsync ∧ decodeTableWord 8 0b00010001 = some .fhdr
      ∧ decodeTableWord 8 0b00010010 = some .badgcr ∧ decodeTableWord 8 0b00010011 = some .syncflg := by decide

/-- 30_encoding.md R82, units U3 and U4. -/
theorem test_decode_detector_aligner :
    decodeTableWord 8 0b00100000 = some .cycdet ∧ decodeTableWord 8 0b00110000 = some .isshift
      ∧ decodeTableWord 8 0b00110001 = some .alignbs := by decide

/-- 30_encoding.md R82, unit U5. -/
theorem test_decode_neighbours :
    decodeTableWord 8 0b01000000 = some .alignsel ∧ decodeTableWord 8 0b01000001 = some .redrun
      ∧ decodeTableWord 8 0b01000010 = some .redgap ∧ decodeTableWord 8 0b01000011 = some .reduce := by decide

/-- 30_encoding.md R84: the values next to the opcodes are illegal. -/
theorem test_decode_illegal :
    ([0x05, 0x0F, 0x14, 0x1F, 0x21, 0x2F, 0x32, 0x3F, 0x44, 0x80, 0xFE] : List Nat).all
      (fun w => decodeTableWord 8 w == none) = true := by decide

/-! ## Helpers -/

/-- The next state of an outcome. -/
def ran : Host.Outcome State Fault Refusal → Option State
  | .next t => some t
  | .fault _ => none
  | .refused _ => none

theorem eq_next_of_ran {o : Host.Outcome State Fault Refusal} {t : State} (h : ran o = some t) : o = .next t := by
  cases o <;> simp_all [ran]

/-- The reset state with the bytes `l` in TB from 0. -/
def tape (l : List Byte) : State := { State.reset with tb := cellsFrom 0 l }

/-- `tape l` with the cycle window on all of it. -/
def cycle (l : List Byte) : State := { tape l with cycl := BitVec.ofNat 16 l.length }

/-- `tape l` with LEN on all of it. -/
def track (l : List Byte) : State := { tape l with len := BitVec.ofNat 16 l.length }

/-- The reset state after a fault. -/
def broken : State := { State.reset with status := 0x80, faultc := 0x01 }

/-- The payload 00 01 .. FF of 95_test_vectors.md section 3.2. -/
def payload : List Byte := (List.range 256).map (BitVec.ofNat 8)

/-- The common set-up of 95_test_vectors.md section 3.2: TRACK 18, SECTOR 0, ID 41 42, the payload in SB. -/
def sectorSetup : State := { State.reset with track := 18, id0 := 0x41, id1 := 0x42, sb := cellsFrom 0 payload }

/-- The revolution REV of 95_test_vectors.md section 5. -/
def rev : List Byte :=
  [0xFF, 0xFF, 0x52, 0xA5, 0x29, 0x4A, 0x52, 0x94, 0xB5, 0x2D, 0x6B, 0x5A,
    0xD6, 0xB5, 0xAD, 0x6B, 0x5A, 0x96, 0xA5, 0x2D, 0x4B, 0x52, 0xD4, 0xB5]

/-- The capture `l` with zone 0's capacities 20, 24, 28 and ALLOW 0 (95_test_vectors.md section 5). -/
def capture (l : List Byte) : State :=
  { track l with
    capmin := ⟨some 20, none, none, none⟩, cap := ⟨some 24, none, none, none⟩, capmax := ⟨some 28, none, none, none⟩
    allow := some 0 }

/-- The strategies' input of `capture l` (42_cycle_detector.md R163). -/
def input (l : List Byte) : CycleInput := ⟨l, 7, 20, 28, 0⟩

/-- The 17 bytes of 95_test_vectors.md V130. -/
def bytes17 : List Byte :=
  [0x55, 0xFF, 0xFF, 0xFF, 0xFF, 0x52, 0xFF, 0xFF, 0x55, 0xFF, 0xFF, 0xFF, 0x00, 0x00, 0x00, 0x00, 0x55]

/-- The 21 bytes of 95_test_vectors.md V120. -/
def bytes21 : List Byte :=
  [0x55, 0x55, 0x55, 0x55, 0xFF, 0xFF, 0x52, 0x94, 0xA5, 0x29, 0x4A, 0x55, 0x55, 0x55, 0xFF, 0xFF, 0x55, 0xD4, 0x11, 0x11,
    0x11]

/-! ## One step of each command -/

/-- V164: NOP sets DONE. -/
theorem test_nop : (ran (step (State.reset.withFetchWord 8 0x00))).map (·.status) = some 0x01 := by decide

/-- V163: SRESET leaves the fault state, with the reset values of P0, INJ, GAPLEN, MINRUN and RUNBYTE. -/
theorem test_sreset :
    (ran (step ({ broken with p0 := 0x12, inj := 7, gaplen := 0 }.withFetchWord 8 0xFF))).map
        (fun t => [t.status, t.faultc, t.cmd, t.p0, t.inj, t.gaplen, t.minrun, t.runbyte])
      = some [0, 0, 0, 0, 0x01, 7, 2, 0xFF] := by decide

/-- V9. -/
theorem test_enc4 :
    (ran (exec .enc4 { State.reset with p0 := 0x12, p1 := 0x34, p2 := 0x56, p3 := 0x78 })).map
        (fun t => [t.g0, t.g1, t.g2, t.g3, t.g4]) = some [0x5C, 0xA6, 0xE7, 0xDA, 0xE9] := by decide

/-- V166: ENC4 leaves FOUND as it was and sets DONE. -/
theorem test_enc4_flags : (ran (exec .enc4 { State.reset with status := 0x03 })).map (·.status) = some 0x03 := by decide

/-- V18: the first plain byte fails, the other three are still decoded. -/
theorem test_dec4_sentinel :
    (ran (exec .dec4 { State.reset with g0 := 0x02, g1 := 0x54, g2 := 0xA5, g3 := 0x2D, g4 := 0x4A })).map
        (fun t => ([t.p0, t.p1, t.p2, t.p3], t.valid)) = some ([0xFF, 0x00, 0x01, 0x00], 0) := by decide

/-- V17: the last code is invalid. -/
theorem test_dec4_last :
    (ran (exec .dec4 { State.reset with g0 := 0x52, g1 := 0x54, g2 := 0xA5, g3 := 0x2D, g4 := 0x48 })).map
        (fun t => ([t.p0, t.p1, t.p2, t.p3], t.valid)) = some ([0x08, 0x00, 0x01, 0xFF], 3) := by decide

/-- V21: the first 44 bytes of the image, POS and OUTLEN. -/
theorem test_encsec :
    (ran (exec .encsec sectorSetup)).map (fun t => (readBytes t.tb 0 44, t.pos, t.outlen)) =
      some (some [0xFF, 0xFF, 0xFF, 0xFF, 0xFF, 0x52, 0x56, 0xB5, 0x29, 0x72, 0x74, 0x9C, 0xB5, 0x55, 0x55, 0x55, 0x55, 0x55,
        0x55, 0x55, 0x55, 0x55, 0x55, 0x55, 0xFF, 0xFF, 0xFF, 0xFF, 0xFF, 0x55, 0xD4, 0xA5, 0x2D, 0x52, 0x54, 0xD4, 0xE5,
        0x3D, 0x56, 0x55, 0xD4, 0x95, 0x65, 0x5A], 354, 354) := by decide +kernel

/-- V26: the injected checksum error, and V45: the last place where the image fits. -/
theorem test_encsec_injected_at_the_end :
    (ran (exec .encsec { sectorSetup with inj := 0x05, pos := 7838 })).map (fun t => (readBytes t.tb 8182 10, t.pos)) =
      some (some [0xAE, 0xEA, 0xDA, 0xF6, 0xBE, 0xAD, 0x6B, 0x55, 0x29, 0x4A], 8192) := by decide +kernel

/-- V40: the one byte FF has no sync, so SyncNotFound, the filler in SB and the doubled cycle in WB. -/
theorem test_decsec_no_sync :
    (ran (exec .decsec (cycle [0xFF]))).map (fun t => (t.err, readBytes t.sb 0 2, t.wb)) =
      some (0x03, some [0x4B, 0x01], [(0, 0xFF), (1, 0xFF)]) := by decide +kernel

/-- V27: zeroed GCR bytes are BadGcrCode, the payload with bytes 3 to 6 replaced by the sentinel. -/
theorem test_decsec_bad_gcr :
    (ran (exec .decsec { cycle (writtenImage 0x06 18 0 0x41 0x42 payload) with track := 18, id0 := 0x41, id1 := 0x42 })).map
        (fun t => (t.err, readBytes t.sb 0 9)) =
      some (0x06, some [0x00, 0x01, 0x02, 0xFF, 0xFF, 0xFF, 0xFF, 0x07, 0x08]) := by decide +kernel

/-- V50. -/
theorem test_fsync :
    (ran (exec .fsync { tape [0x55, 0x55, 0xFF, 0xFF, 0x52, 0x54, 0xA5, 0x2D] with endPos := 8 })).map
        (fun t => (t.status, t.res, t.pos)) = some (0x03, 4, 4) := by decide +kernel

/-- V54: a run of 0xFF that reaches END is no sync. -/
theorem test_fsync_open_run :
    (ran (exec .fsync { tape [0x55, 0xFF, 0xFF] with endPos := 3, status := 0x02 })).map (fun t => (t.status, t.res, t.pos))
      = some (0x01, 3, 3) := by decide +kernel

/-- V57: the second header mark, its answer equal to END. -/
theorem test_fhdr :
    (ran (exec .fhdr { tape [0x55, 0xFF, 0x55, 0xFF, 0xFF, 0x52, 0x24, 0x55, 0xFF, 0x52] with pos := 6, endPos := 10 })).map
        (fun t => (t.status, t.res, t.pos)) = some (0x03, 10, 10) := by decide +kernel

/-- V62: at POS 0 the previous byte is the last of the declared length. -/
theorem test_badgcr_wrap :
    (ran (exec .badgcr { tape [0x52, 0xA4] with len := 2 })).map (·.status) = some 0x05 := by decide +kernel

/-- V61, on WB. -/
theorem test_badgcr_good :
    (ran (exec .badgcr { State.reset with wb := cellsFrom 0 [0x55, 0x29], bufsel := 1, len := 2, pos := 1, status := 0x04 })).map
        (·.status) = some 0x01 := by decide +kernel

/-- V73: a count of 1 reaches LEN − 3 = 0. -/
theorem test_syncflg : (ran (exec .syncflg (track [0x55, 0x7F, 0x55]))).map (·.zflags) = some 0x80 := by decide +kernel

/-- V73: the zero test comes first. -/
theorem test_syncflg_zero : (ran (exec .syncflg (track [0x55, 0x55, 0x55]))).map (·.zflags) = some 0x40 := by decide +kernel

/-- V80: header marks at 3, 27, 51. -/
theorem test_cycdet :
    (ran (exec .cycdet (capture (rev ++ rev ++ rev.take 16)))).map (fun t => (t.cycs, t.cycl, t.strat)) = some (3, 24, 1) := by
  decide +kernel

/-- V81: no header mark, sync marks at 2, 26, 50. -/
theorem test_cycdet_sync :
    (ran (exec .cycdet (capture (rev.set 2 0x5A ++ rev.set 2 0x5A ++ (rev.set 2 0x5A).take 16)))).map
        (fun t => (t.cycs, t.cycl, t.strat)) = some (2, 24, 2) := by decide +kernel

/-- V102: the run 1 to 16 ends at bit 17. -/
theorem test_isshift : (ran (exec .isshift (cycle [0x7F, 0xFF, 0x80, 0x55]))).map (·.status) = some 0x09 := by decide +kernel

/-- V107: a run that reaches the end of the window is not shifted. -/
theorem test_isshift_end :
    (ran (exec .isshift { cycle [0x55, 0x57, 0xFF] with status := 0x08 })).map (·.status) = some 0x01 := by decide +kernel

/-- V100. -/
theorem test_alignbs :
    (ran (exec .alignbs (cycle [0x2A, 0xFF, 0xFF, 0xA9, 0x4A, 0x52, 0x94, 0xA5]))).map
        (fun t => (readBytes t.wb 0 9, t.outlen, t.padbits)) =
      some (some [0x2A, 0x01, 0xFF, 0xFF, 0x52, 0x94, 0xA5, 0x29, 0x4A], 9, 7) := by decide +kernel

/-- V109: the steps of BITCOPY. -/
theorem test_bitcopy_steps : bitCopySteps 39 25 32 39 = [7, 1, 7, 1, 7, 1, 7, 1, 7] := by decide

/-- V122: the auto gap, five bytes before the run, modulo the length. -/
theorem test_alignsel :
    (ran (exec .alignsel (cycle [0x01, 0x02, 0x03, 0x03, 0x03, 0x04, 0x05, 0x06, 0x07, 0x08]))).map
        (fun t => (t.tag, t.res, readBytes t.tb 0 10)) =
      some (0x05, 7, some [0x06, 0x07, 0x08, 0x01, 0x02, 0x03, 0x03, 0x03, 0x04, 0x05]) := by decide +kernel

/-- V121: the forced bad-GCR run. -/
theorem test_alignsel_bad_run :
    (ran (exec .alignsel { cycle bytes21 with alignovr := 4 })).map (fun t => (t.tag, t.res)) = some (0x04, 18) := by
  decide +kernel

/-- V130. -/
theorem test_redrun :
    (ran (exec .redrun { track bytes17 with target := 14 })).map (fun t => (t.len, readBytes t.tb 0 14)) =
      some (14, some [0x55, 0xFF, 0xFF, 0x52, 0xFF, 0xFF, 0x55, 0xFF, 0xFF, 0x00, 0x00, 0x00, 0x00, 0x55]) := by decide +kernel

/-- V131. -/
theorem test_redgap :
    (ran (exec .redgap { track bytes17 with target := 14 })).map (fun t => (t.len, readBytes t.tb 0 14)) =
      some (14, some [0xFF, 0xFF, 0xFF, 0xFF, 0xFF, 0xFF, 0xFF, 0xFF, 0xFF, 0x00, 0x00, 0x00, 0x00, 0x55]) := by decide +kernel

/-- V132. -/
theorem test_reduce :
    (ran (exec .reduce { track bytes17 with target := 12 })).map (fun t => (t.len, readBytes t.tb 0 12)) =
      some (12, some [0x55, 0xFF, 0xFF, 0x52, 0xFF, 0xFF, 0x55, 0xFF, 0xFF, 0x00, 0x00, 0x55]) := by decide +kernel

/-- V134: the tail is truncated. -/
theorem test_reduce_truncates :
    (ran (exec .reduce { track bytes17 with target := 8 })).map (fun t => (t.len, readBytes t.tb 0 8)) =
      some (8, some [0xFF, 0xFF, 0xFF, 0xFF, 0xFF, 0xFF, 0x00, 0x00]) := by decide +kernel

/-- V93: the windows of VALIDWIN. -/
theorem test_validWin :
    [validWin [0x55, 0x55, 0x55, 0x55, 0x55, 0x55, 0x55], validWin [0x55, 0x55, 0x55, 0x55, 0xA5, 0x29, 0x4A],
      validWin [0xA5, 0x29, 0x4A, 0x52, 0x94, 0xB5, 0x2D], validWin [0x12, 0xFF, 0x34, 0x56, 0x78, 0x9A, 0xBC],
      validWin [0x12, 0x55, 0xAA, 0x34, 0x56, 0x78, 0x9A], validWin [0x12, 0x34, 0x12, 0x34, 0x12, 0x34, 0x12]]
      = [false, true, true, false, false, false] := by decide

/-! ## Faults -/

/-- V150: an illegal opcode: STATUS 80, FAULTC 01, CMD reads 05. -/
theorem test_illegal_command :
    (ran (step (State.reset.withFetchWord 8 0x05))).map (fun t => [t.status, t.faultc, t.cmd]) = some [0x80, 0x01, 0x05] := by
  decide

/-- V161: a faulted block ignores NOP, but CMD takes the value. -/
theorem test_faulted_ignores :
    (ran (step ({ broken with cmd := 0x05 }.withFetchWord 8 0x00))).map (fun t => [t.status, t.faultc, t.cmd])
      = some [0x80, 0x01, 0x00] := by decide

/-- V165: without U5, REDUCE is an illegal command. -/
theorem test_absent_unit :
    (ran (startCommand noU5 0x43 State.reset)).map (fun t => [t.status, t.faultc]) = some [0x80, 0x01] := by decide

/-- V160: the matcher check precedes the buffer check. -/
theorem test_alignsel_unsup :
    (ran (exec .alignsel { State.reset with cycl := 4, alignovr := 0x10 })).map (fun t => [t.status, t.faultc])
      = some [0x80, 0x05] := by decide

/-- V154: the argument check of ENCSEC precedes its buffer check. -/
theorem test_encsec_badarg :
    (ran (exec .encsec { State.reset with inj := 7 })).map (fun t => [t.status, t.faultc]) = some [0x80, 0x03] := by decide

/-! ## The host's side -/

/-- 10_state.md R37: a value wider than the register stores its low bits, a reserved index reads 0. -/
theorem test_host_register :
    hostView params (hostStore params .reg 0x21 0x1D State.reset) .reg 0x21 = some 5
      ∧ hostView params State.reset .reg 0x0F = some 0 ∧ hostView params State.reset .reg 0x40 = none := by decide

/-- 30_encoding.md R83: 0x1FF is neither 0xFF nor an opcode, so it faults, or a faulted block ignores it; CMD takes the low
byte. -/
theorem test_wide_cmd_write :
    (ran (hostMove params (.write .reg 0x30 (.imm 0x1FF)) State.reset)).map (fun t => [t.status, t.faultc, t.cmd])
        = some [0x80, 0x01, 0xFF]
      ∧ ran (hostMove params (.write .reg 0x30 (.imm 0x1FF)) broken) = some { broken with cmd := 0xFF } := by decide

/-- 30_encoding.md R85: SETCAP writes CAPMIN, CAP and CAPMAX of the zone. -/
theorem test_setcap_moves :
    scriptMoves (.setcap 2 20 24 28) =
      [.write .reg 0x42 (.imm 20), .write .reg 0x46 (.imm 24), .write .reg 0x4A (.imm 28)] := by decide

/-! ## Witnesses: states and operands that meet the hypotheses of the statements -/

/-- OpcodeMapIsComplete: a value in no row. -/
theorem witness_OpcodeMapIsComplete :
    (0x44 : Byte).toNat ∉ [0x00, 0x01, 0x02, 0x03, 0x04, 0x10, 0x11, 0x12, 0x13, 0x20, 0x30, 0x31, 0x40, 0x41, 0x42, 0x43,
      0xFF] := by decide

/-- StepRunsTheDecodedCommand: the host's next move writes an opcode, or the least number above a byte to an unfaulted and
to a faulted block. -/
theorem witness_StepRunsTheDecodedCommand :
    (State.reset.withFetchWord 8 0x10).host = .write .reg 0x30 (.imm 0x10) :: []
      ∧ hostNumber (State.reset.withFetchWord 8 0x10) (.imm 0x10) < 256
      ∧ decode params (BitVec.ofNat 8 (hostNumber (State.reset.withFetchWord 8 0x10) (.imm 0x10))) = .ok .fsync
      ∧ 256 ≤ hostNumber State.reset (.imm 0x100) ∧ State.reset.flag .fault = false ∧ broken.flag .fault = true :=
  ⟨by decide, by decide, rfl, by decide, by decide, by decide⟩

theorem witness_NoHostMoveNoChange : State.reset.host = [] := rfl

/-- IllegalCommandFaults: both clauses, the first with a byte and with the wide number whose low byte is SRESET's. -/
theorem witness_IllegalCommandFaults :
    State.reset.flag .fault = false ∧ (∀ i, (encode i).toNat ≠ 0x05) ∧ (∀ i, (encode i).toNat ≠ 0x1FF) ∧ noU5.hasU5 = false
      ∧ 0x40 ∈ ([0x40, 0x41, 0x42, 0x43] : List Nat) :=
  ⟨by decide, fun i => by cases i <;> decide, fun i => by cases i <;> decide, rfl, by decide⟩

/-- FaultedBlockIgnoresCommands, FaultIsStickyUntilReset: a faulted state that ignores a command. -/
theorem witness_FaultIsStickyUntilReset :
    broken.flag .fault = true ∧ Inv broken ∧ (0x00 : Byte) ≠ 0xFF ∧ ran (exec .nop broken) = some broken
      ∧ Instr.nop ≠ .sreset := by decide

theorem witness_FaultedBlockIgnoresCommands : broken.flag .fault = true ∧ 0x43 ≠ 0xFF ∧ 0x1FF ≠ 0xFF := by decide

theorem witness_CmdHoldsTheValueWritten :
    0x1FF ≠ 0xFF ∧ (ran (startCommand params 0x1FF State.reset)).isSome = true := by decide

/-- NopAndSresetComplete, Enc4PacksTheEightCodes, Enc4ThenDec4RoundTrips: an unfaulted state. -/
theorem witness_unfaulted : State.reset.flag .fault = false := by decide

theorem witness_NopAndSresetComplete : State.reset.flag .fault = false ∧ Inv State.reset ∧ Inv broken := by decide

theorem witness_Enc4PacksTheEightCodes : { State.reset with p0 := 0x12 }.flag .fault = false := by decide

/-- Dec4InvertsTheCodes: a group whose plain byte 0 has two codes of the table, and one whose byte 0 has not. -/
theorem witness_Dec4InvertsTheCodes :
    { State.reset with g0 := 0x52, g1 := 0x54 }.flag .fault = false
      ∧ gcrCode params 0 = BitVec.extractLsb' 35 5 (0x52#8 ++ 0x54#8 ++ 0#8 ++ 0#8 ++ 0#8)
      ∧ gcrCode params 8 = BitVec.extractLsb' 30 5 (0x52#8 ++ 0x54#8 ++ 0#8 ++ 0#8 ++ 0#8)
      ∧ ¬ ∃ hi lo : BitVec 4, gcrCode params hi = BitVec.extractLsb' 35 5 (0 : Group)
          ∧ gcrCode params lo = BitVec.extractLsb' 30 5 (0 : Group) := by decide

theorem witness_Enc4ThenDec4RoundTrips : { State.reset with p0 := 0x12 }.flag .fault = false := by decide

/-- EncodedStreamHasNoBadGcrAndNoSync: a stream with positions. -/
theorem witness_EncodedStreamHasNoBadGcrAndNoSync : (encBytes params [0x08, 0x00, 0x01, 0x00]).length = 5 := by decide

/-- EncsecWritesTheSectorImage: each clause, POS at the boundary. -/
theorem witness_EncsecWritesTheSectorImage :
    sectorSetup.flag .fault = false
      ∧ 8192 < { sectorSetup with pos := 7839 }.pos.toNat + 354
      ∧ { sectorSetup with pos := 7838 }.pos.toNat + 354 ≤ 8192
      ∧ (0x07 : Byte) ∉ sectorNumbers ∧ (0x0B : Byte) ∈ sectorNumbers
      ∧ readBytes State.reset.sb 0 256 = none ∧ readBytes sectorSetup.sb 0 256 = some payload := by decide +kernel

/-- DecsecStoresItsResult: a window that ends at the last byte of TB. -/
theorem witness_DecsecStoresItsResult :
    let s := { State.reset with tb := cellsFrom 8190 [0x55, 0xFF], cycs := 8190, cycl := 2 }
    s.flag .fault = false ∧ s.cycl ≠ 0 ∧ s.cycs.toNat + s.cycl.toNat ≤ 8192
      ∧ readBytes s.tb s.cycs.toNat s.cycl.toNat = some [0x55, 0xFF] := by decide +kernel

/-- A list of at most two bytes holds no sync. -/
theorem no_syncEnd_of_short {l : List Byte} (h : l.length ≤ 2) (q : Nat) : ¬ SyncEnd l q := by
  rintro ⟨i, h1, h2, -⟩
  omega

/-- SyncNotFoundMeansNoSync: a doubled cycle without a sync. -/
theorem witness_SyncNotFoundMeansNoSync : ∀ q, ¬ SyncEnd [0xFF, 0xFF] q := no_syncEnd_of_short (by simp)

/-- `q` is the end of a sync, tested. -/
theorem syncEnd_of_test {l : List Byte} {i q : Nat}
    (h : (decide (i + 1 < q) && decide (q < l.length) && (l.getD i 0).getLsbD 0
      && (List.range q).all (fun k => decide (k ≤ i) || l.getD k 0 == 0xFF) && l.getD q 0 != 0xFF) = true) : SyncEnd l q := by
  simp only [Bool.and_eq_true, decide_eq_true_eq, List.all_eq_true, Bool.or_eq_true, beq_iff_eq, bne_iff_ne, ne_eq,
    List.mem_range] at h
  obtain ⟨⟨⟨⟨h1, h2⟩, h3⟩, h4⟩, h5⟩ := h
  exact ⟨i, h1, h2, h3, fun k hk hq => (h4 k hq).resolve_left (by omega), h5⟩

/-- V22's image, doubled. -/
def okCycle : List Byte := writtenImage 0x01 18 0 0x41 0x42 payload ++ writtenImage 0x01 18 0 0x41 0x42 payload

/-- DecsecReportsTheFirstCondition: a doubled cycle without a sync, one whose only sync has no room for a header, and the
doubled image of V22, whose first header stands at 5, with a clean header, the data block at 29 and no bad window in it. -/
theorem witness_DecsecReportsTheFirstCondition :
    (∀ q, ¬ SyncEnd [0xFF, 0xFF] q)
      ∧ SyncEnd [0xFF, 0xFF, 0x52] 2 ∧ (∀ q, ¬ HeaderAt 18 0 [0xFF, 0xFF, 0x52] q)
      ∧ HeaderAt 18 0 okCycle 5 ∧ (∀ q' < 5, ¬ HeaderAt 18 0 okCycle q')
      ∧ decBytes params ((okCycle.drop 5).take 10) = [0x08, 0x11, 0x00, 0x12, 0x42, 0x41, 0x0F, 0x0F]
      ∧ NextSync okCycle 15 29 ∧ 29 + 325 ≤ okCycle.length
      ∧ (List.range 10).all (fun j => !badGcr okCycle okCycle.length (5 + j)) = true
      ∧ (List.range 325).all (fun j => !badGcr okCycle okCycle.length (29 + j)) = true := by
  have at5 : ∀ q < 5, okCycle.getD q 0 = 0xFF := by decide +kernel
  have before : ∀ e < 14, (okCycle.drop 15).getD e 0 = 0xFF ∨ ((okCycle.drop 15).getD (e - 1) 0 ≠ 0xFF ∨ e = 0) := by
    decide +kernel
  refine ⟨no_syncEnd_of_short (by simp), syncEnd_of_test (i := 0) (by decide), ?_,
    ⟨syncEnd_of_test (i := 0) (by decide +kernel), by decide +kernel, _, rfl, by decide +kernel, by decide +kernel,
      by decide +kernel⟩,
    ?_, by decide +kernel, ⟨by decide, syncEnd_of_test (i := 8) (by decide +kernel), ?_⟩, by decide +kernel, by decide +kernel,
    by decide +kernel⟩
  · rintro q ⟨-, h, -⟩
    simp only [List.length_cons, List.length_nil] at h
    omega
  · rintro q hq ⟨⟨-, -, -, -, -, h⟩, -⟩
    exact h (at5 q hq)
  · rintro d h1 h2 ⟨i, hi, -, -, hff, hne⟩
    rcases before (d - 15) (by omega) with h | h | h
    · exact hne h
    · exact h (hff _ (by omega) (by omega))
    · omega

/-- V22 to V29, and V35 for the missing data block: each condition of DecsecReportsTheFirstCondition comes first in some
doubled cycle. -/
theorem witness_DecsecReportsTheFirstCondition_codes :
    sectorNumbers.map (fun e => defaultErrNumber (decodeSector params 18 0 0x41 0x42
        (writtenImage e 18 0 0x41 0x42 payload ++ writtenImage e 18 0 0x41 0x42 payload)).1) = sectorNumbers
      ∧ (decodeSector params 18 0 0x41 0x42 (okCycle.take 29 ++ List.replicate 100 0x55)).1 = .dataNotFound
      ∧ (decodeSector params 18 0 0x41 0x43 (okCycle.take 29 ++ List.replicate 100 0x55)).1 = .idMismatch := by
  decide +kernel

/-- InjectedErrorIsReportedExactly: an injected error at the last place where the image fits. -/
theorem witness_InjectedErrorIsReportedExactly :
    let s := { sectorSetup with inj := 0x0B, pos := 7838 }
    s.flag .fault = false ∧ s.pos.toNat + 354 ≤ 8192 ∧ s.inj ∈ sectorNumbers
      ∧ readBytes s.sb 0 256 = some payload := by decide +kernel

theorem witness_EncsecThenDecsecRoundTrips :
    sectorSetup.flag .fault = false ∧ sectorSetup.pos.toNat + 354 ≤ 8192 ∧ sectorSetup.inj = 0x01
      ∧ readBytes sectorSetup.sb 0 256 = some payload := by decide +kernel

/-- FsyncFindsTheFirstSyncEnd: the range faults on each side, an unwritten byte, a sync, and none. -/
theorem witness_FsyncFindsTheFirstSyncEnd :
    let s := { tape [0xFF, 0xFF, 0x52] with endPos := 3 }
    s.flag .fault = false
      ∧ ¬ ({ s with pos := 4 }.pos.toNat ≤ s.endPos.toNat) ∧ ¬ ({ s with endPos := 8193 }.endPos.toNat ≤ (scanned s).2)
      ∧ { s with endPos := 8192 }.endPos.toNat ≤ (scanned s).2
      ∧ readBytes (scanned s).1 0 4 = none ∧ readBytes (scanned s).1 0 3 = some [0xFF, 0xFF, 0x52]
      ∧ SyncEnd [0xFF, 0xFF, 0x52] 2 ∧ (∀ q' < 2, ¬ SyncEnd [0xFF, 0xFF, 0x52] q')
      ∧ readBytes (scanned s).1 0 2 = some [0xFF, 0xFF] ∧ ∀ q, ¬ SyncEnd [0xFF, 0xFF] q := by
  refine ⟨by decide, by decide, by decide, by decide, by decide, by decide, syncEnd_of_test (i := 0) (by decide), ?_,
    by decide, no_syncEnd_of_short (by simp)⟩
  rintro q hq ⟨i, h1, -⟩
  omega

/-- FhdrFindsTheFirstHeaderMark: a header mark, and a sync without one. -/
theorem witness_FhdrFindsTheFirstHeaderMark :
    let s := { tape [0xFF, 0xFF, 0x52] with endPos := 3 }
    s.flag .fault = false ∧ ¬ ({ s with pos := 4 }.pos.toNat ≤ s.endPos.toNat)
      ∧ s.endPos.toNat ≤ (scanned s).2 ∧ readBytes (scanned s).1 0 4 = none
      ∧ readBytes (scanned s).1 0 3 = some [0xFF, 0xFF, 0x52]
      ∧ SyncEnd [0xFF, 0xFF, 0x52] 2 ∧ ([0xFF, 0xFF, 0x52] : List Byte).getD 2 0 = 0x52
      ∧ (∀ q' < 2, SyncEnd [0xFF, 0xFF, 0x52] q' → ([0xFF, 0xFF, 0x52] : List Byte).getD q' 0 ≠ 0x52)
      ∧ ∀ q, SyncEnd [0xFF, 0xFF, 0x53] q → ([0xFF, 0xFF, 0x53] : List Byte).getD q 0 ≠ 0x52 := by
  refine ⟨by decide, by decide, by decide, by decide, by decide, syncEnd_of_test (i := 0) (by decide), by decide, ?_, ?_⟩
  · rintro q hq ⟨i, h1, -⟩
    omega
  · rintro q ⟨i, h1, h2, -⟩
    simp only [List.length_cons, List.length_nil] at h2
    obtain rfl : q = 2 := by omega
    decide

/-- BadgcrTestsTheTenBitWindow: the three range faults, an unwritten previous byte, the wrap at POS 0. -/
theorem witness_BadgcrTestsTheTenBitWindow :
    let s := { tape [0x52, 0xA4] with len := 2 }
    s.flag .fault = false ∧ ¬ (1 ≤ { s with len := 0 }.len.toNat) ∧ ¬ ({ s with len := 8193 }.len.toNat ≤ (scanned s).2)
      ∧ ¬ ({ s with pos := 2 }.pos.toNat < s.len.toNat)
      ∧ 1 ≤ s.len.toNat ∧ s.len.toNat ≤ (scanned s).2 ∧ s.pos.toNat < s.len.toNat
      ∧ Memory.wf (scanned s).2 (scanned s).1
      ∧ readByte (scanned s).1 1 = some 0xA4 ∧ readByte (scanned s).1 0 = some 0x52
      ∧ readByte (scanned s).1 ({ s with len := 3 }.len.toNat - 1) = none := by decide

/-- SyncflgClassifiesTheTrack: past the buffer, an unwritten byte, a written track. -/
theorem witness_SyncflgClassifiesTheTrack :
    let s := track [0x55, 0x7F, 0x55]
    s.flag .fault = false ∧ (scanned s).2 < { s with len := 8193 }.len.toNat
      ∧ { s with len := 4 }.len.toNat ≤ (scanned s).2 ∧ readBytes (scanned s).1 0 4 = none
      ∧ s.len.toNat ≤ (scanned s).2 ∧ readBytes (scanned s).1 0 s.len.toNat = some [0x55, 0x7F, 0x55]
      ∧ 1 = (([0x55, 0x7F, 0x55] : List Byte).filter fun b => b = 0x7F ∨ b = 0xFF).length := by decide

/-- CycdetChecksInOrder: each test fails in some state, at its boundary. -/
theorem witness_CycdetChecksInOrder :
    let s := { capture [0x55] with len := 2 }
    s.flag .fault = false ∧ (0 : BitVec 2) = s.zflags.extractLsb' 0 2 ∧ zoneGet State.reset.capmin 0 = none
      ∧ zoneGet s.capmin 0 = some 20 ∧ zoneGet s.capmax 0 = some 28 ∧ s.allow = some 0
      ∧ 8192 < { s with len := 8193 }.len.toNat ∧ s.len.toNat ≤ 8192 ∧ (19 : Word).toNat < (20 : Word).toNat
      ∧ s.gaplen ≠ 0 ∧ { s with gaplen := 0 }.gaplen = 0 ∧ readBytes s.tb 0 s.len.toNat = none ∧ (capture []).len = 0 := by
  decide

/-- CycdetCompletesInsideTheCapture: the capture of V80, and captures for each strategy: V80, V81, V82 and one for none. -/
theorem witness_CycdetCompletesInsideTheCapture :
    let l := rev ++ rev ++ rev.take 16
    let s := capture l
    let r1 := rev.set 2 0x5A
    let k1 := input (r1 ++ r1 ++ r1.take 16)
    let r2 := (rev.set 0 0x4B).set 1 0x2D |>.set 2 0x5A
    let k2 := input (r2 ++ r2 ++ r2.take 16)
    s.flag .fault = false ∧ (0 : BitVec 2) = s.zflags.extractLsb' 0 2 ∧ zoneGet s.capmin 0 = some 20
      ∧ zoneGet s.capmax 0 = some 28 ∧ s.allow = some 0 ∧ s.len.toNat ≤ 8192 ∧ (20 : Word).toNat ≤ (28 : Word).toNat
      ∧ s.gaplen ≠ 0 ∧ readBytes s.tb 0 s.len.toNat = some l
      ∧ input l = ⟨l, s.gaplen.toNat, (20 : Word).toNat, (28 : Word).toNat, (0 : Word).toNat⟩
      ∧ strategyHeader (input l) = some (3, 24) ∧ strategyHeader k1 = none ∧ strategySync k1 = some (2, 24)
      ∧ strategyHeader k2 = none ∧ strategySync k2 = none ∧ strategyRaw k2 = some (0, 24)
      ∧ strategyHeader (input r2) = none ∧ strategySync (input r2) = none ∧ strategyRaw (input r2) = none := by decide +kernel

/-- ShortCaptureGetsTheFallback: the longest capture that is too short. -/
theorem witness_ShortCaptureGetsTheFallback :
    let k := input [1, 2, 3, 4, 5, 6, 7, 8]
    k.tb.length < k.gap + 2 ∧ 0 < k.gap ∧ 0 < k.capMin + k.allow := by decide

/-- MarksFindsTheFirstVerifiedRepeat: V80 for the header marks, V81 for the sync marks, and a capture without marks. -/
theorem witness_MarksFindsTheFirstVerifiedRepeat :
    strategyHeader (input (rev ++ rev ++ rev.take 16)) = some (3, 24)
      ∧ strategySync (input (rev.set 2 0x5A ++ rev.set 2 0x5A ++ (rev.set 2 0x5A).take 16)) = some (2, 24)
      ∧ strategyHeader (input [0x55, 0x55]) = none := by decide +kernel

/-- RawFindsTheFirstMatchingPair: the pair of V82, and a capture with none. -/
theorem witness_RawFindsTheFirstMatchingPair :
    let r := (rev.set 0 0x4B).set 1 0x2D |>.set 2 0x5A
    strategyRaw (input (r ++ r ++ r.take 16)) = some (0, 24) ∧ strategyRaw (input r) = none := by decide +kernel

/-- ValidWindowCountsAsStated: a valid and an invalid window. -/
theorem witness_ValidWindowCountsAsStated :
    validWin [0x55, 0x55, 0x55, 0x55, 0xA5, 0x29, 0x4A] = true ∧ validWin [0x12, 0x34, 0x12, 0x34, 0x12, 0x34, 0x12] = false := by
  decide

/-- PostExtendsAShortLength: on both sides of CAPMIN, and against the end of the capture. -/
theorem witness_PostExtendsAShortLength :
    let k : CycleInput := ⟨List.replicate 30 0, 7, 20, 28, 0⟩
    0 + 20 ≤ k.tb.length ∧ 9 + 21 ≤ k.tb.length ∧ k.capMin ≤ k.capMax
      ∧ cyclePost k (0, 20) = (0, 24) ∧ cyclePost k (8, 20) = (8, 22) ∧ cyclePost k (9, 21) = (9, 21) := by decide

/-- IsshiftTestsTheSyncEnds, AlignbsAlignsEverySync: past TB, an unwritten byte, a written window. -/
theorem witness_IsshiftTestsTheSyncEnds :
    let s := cycle [0x7F, 0xFF, 0x80, 0x55]
    s.flag .fault = false ∧ 8192 < { s with cycs := 8189 }.cycs.toNat + s.cycl.toNat
      ∧ { s with cycs := 8188 }.cycs.toNat + s.cycl.toNat ≤ 8192 ∧ readBytes s.tb 8188 s.cycl.toNat = none
      ∧ s.cycs.toNat + s.cycl.toNat ≤ 8192
      ∧ readBytes s.tb s.cycs.toNat s.cycl.toNat = some [0x7F, 0xFF, 0x80, 0x55] := by decide

theorem witness_AlignbsAlignsEverySync :
    let s := cycle [0x7F, 0xFF, 0x80, 0x55]
    s.flag .fault = false ∧ 8192 < { s with cycs := 8189 }.cycs.toNat + s.cycl.toNat
      ∧ { s with cycs := 8188 }.cycs.toNat + s.cycl.toNat ≤ 8192 ∧ readBytes s.tb 8188 s.cycl.toNat = none
      ∧ s.cycs.toNat + s.cycl.toNat ≤ 8192
      ∧ readBytes s.tb s.cycs.toNat s.cycl.toNat = some [0x7F, 0xFF, 0x80, 0x55] := by decide

/-- AlignbsCopiesATrackWithoutSync: a window too short for a sync run. -/
theorem witness_AlignbsCopiesATrackWithoutSync :
    let s := cycle [0xFF]
    s.flag .fault = false ∧ s.cycs.toNat + s.cycl.toNat ≤ 8192 ∧ readBytes s.tb s.cycs.toNat s.cycl.toNat = some [0xFF]
      ∧ ∀ a b, ¬ SyncRun (bitString [0xFF]) a b := by
  refine ⟨by decide, by decide, by decide, ?_⟩
  rintro a b ⟨h1, h2, -⟩
  simp [bitString, byteBits] at h2
  omega

/-- AlignselRotatesTheCycle: V122. -/
theorem witness_AlignselRotatesTheCycle :
    let l : List Byte := [0x01, 0x02, 0x03, 0x03, 0x03, 0x04, 0x05, 0x06, 0x07, 0x08]
    let s := cycle l
    s.flag .fault = false ∧ s.cycl ≠ 0 ∧ s.cycs.toNat + s.cycl.toNat ≤ 8192
      ∧ overrideOf s.alignovr = some .automatic ∧ (∀ k, Override.automatic ≠ .signature k)
      ∧ readBytes s.tb s.cycs.toNat s.cycl.toNat = some l :=
  ⟨by decide, by decide, by decide, by decide, (fun k => by cases k <;> decide), by decide⟩

/-- AlignselChecksInOrder: each clause at a boundary. -/
theorem witness_AlignselChecksInOrder :
    let s := cycle [0x55]
    s.flag .fault = false ∧ State.reset.cycl = 0 ∧ 8192 < { s with cycs := 8192 }.cycs.toNat + s.cycl.toNat
      ∧ s.cycl ≠ 0 ∧ { s with cycs := 8191 }.cycs.toNat + s.cycl.toNat ≤ 8192
      ∧ (0x07 : Byte).toNat ∉ [0x00, 0x01, 0x02, 0x03, 0x04, 0x05, 0x06, 0x10, 0x11, 0x12, 0x13]
      ∧ (0x14 : Byte).toNat ∉ [0x00, 0x01, 0x02, 0x03, 0x04, 0x05, 0x06, 0x10, 0x11, 0x12, 0x13]
      ∧ (0x13 : Byte).toNat ∈ [0x10, 0x11, 0x12, 0x13] ∧ s.alignovr.toNat ∈ [0x00, 0x01, 0x02, 0x03, 0x04, 0x05, 0x06]
      ∧ readBytes s.tb 8191 s.cycl.toNat = none := by decide

theorem witness_ForcedRawDoesNotRotate :
    let s := { cycle [0x01, 0x02] with alignovr := 0x06 }
    s.flag .fault = false ∧ s.cycl ≠ 0 ∧ s.cycs.toNat + s.cycl.toNat ≤ 8192 ∧ s.alignovr = 0x06
      ∧ readBytes s.tb s.cycs.toNat s.cycl.toNat = some [0x01, 0x02] := by decide

/-- The default parameters with a V-MAX Cinemaware matcher that finds its signature at −1, and a V-MAX one that finds none. -/
def matched : Config :=
  { params with
    protMatch := fun k => match k with
      | .vmax => some fun _ _ => none
      | .vmaxCinemaware => some fun _ _ => some (-1)
      | .pirateSlayer => none
      | .rapidLok => none }

/-- AutomaticOrderTakesTheFirstApplicable: V123's cycle gives nothing to align on, V120's a gap, and a matcher comes first. -/
theorem witness_AutomaticOrderTakesTheFirstApplicable :
    selectAlign params ([1, 2, 3, 4, 5, 6] ++ [1, 2, 3, 4, 5, 6]) 6 .automatic = (.none, 0)
      ∧ (selectAlign params (bytes21 ++ bytes21) 21 .automatic).1 = .gap
      ∧ normalOffset (selectAlign params (bytes21 ++ bytes21) 21 .automatic).2 21 = 4
      ∧ selectAlign matched (bytes21 ++ bytes21) 21 .automatic = (.signature .vmaxCinemaware, -1) :=
  ⟨by decide +kernel, by decide +kernel, by decide +kernel, rfl⟩

/-- PresentMatcherWins: the second matcher wins, a forced one that finds nothing, and an absent one. -/
theorem witness_PresentMatcherWins :
    let s := cycle [1, 2, 3]
    matched.hasU5 = true ∧ s.flag .fault = false ∧ s.cycl ≠ 0 ∧ s.cycs.toNat + s.cycl.toNat ≤ 8192
      ∧ readBytes s.tb s.cycs.toNat s.cycl.toNat = some [1, 2, 3] ∧ s.alignovr = 0x00
      ∧ [ProtKind.vmax] ++ .vmaxCinemaware :: [.pirateSlayer, .rapidLok] = [.vmax, .vmaxCinemaware, .pirateSlayer, .rapidLok]
      ∧ (∀ f, matched.protMatch .vmaxCinemaware = some f → f [] 0 = some (-1))
      ∧ (∀ f, matched.protMatch .vmax = some f → f [] 0 = none) ∧ matched.protMatch .pirateSlayer = none
      ∧ { s with alignovr := 0x12 }.alignovr.toNat = 0x10 + [ProtKind.vmax, .vmaxCinemaware].length := by
  refine ⟨rfl, by decide, by decide, by decide, by decide, rfl, rfl, ?_, ?_, rfl, by decide⟩
  · rintro f h; cases h; rfl
  · rintro f h; cases h; rfl

/-- 10_state.md R36: the matcher of the block's own parameters acts: TAG 0x11, the cycle rotated by −1 modulo 3. -/
theorem test_matcher_of_the_parameters :
    (ran (startCommand matched 0x40 (cycle [1, 2, 3]))).map (fun t => (t.tag, t.res, readBytes t.tb 0 3)) =
      some (0x11, 2, some [3, 1, 2]) := by decide +kernel

/-- LongestRunsAreTheFirstLongest: the answers of V121, the tie of the long syncs to the first, and lists with no run. -/
theorem witness_LongestRunsAreTheFirstLongest :
    longSyncSearch (bytes21 ++ bytes21) = some 4 ∧ longSyncSearch [0x55] = none
      ∧ autoGapSearch (bytes21 ++ bytes21) = some (-5) ∧ autoGapSearch [0x55, 0x56] = none
      ∧ badRunSearch (bytes21 ++ bytes21) = some 18 ∧ badRunSearch [0x55] = none := by decide +kernel

/-- GapIsTheFirstLongestSpan: V120's gap, and a window with one sync only. -/
theorem witness_GapIsTheFirstLongestSpan :
    gapSearch (bytes21 ++ bytes21) 21 = some (11, 25) ∧ gapSearch [0xFF, 0xFF, 0x55] 3 = none := by decide +kernel

/-- Sector0IsTheFirstHeader: the header 52 55 25 29 4B of V21 (08 01 00 01) after its sync, and a window without it. -/
theorem witness_Sector0IsTheFirstHeader :
    sector0Search params [0x55, 0xFF, 0xFF, 0x52, 0x55, 0x25, 0x29, 0x4B] 8 = some 1
      ∧ sector0Search params [0x55, 0xFF, 0xFF, 0x52, 0x55, 0x25, 0x29, 0x4B] 3 = none := by decide +kernel

/-- RedrunStripsRunsToTheTarget: past TB, an unwritten byte, and V130's bytes. -/
theorem witness_RedrunStripsRunsToTheTarget :
    let s := { track bytes17 with target := 14 }
    s.flag .fault = false ∧ 8192 < { s with len := 8193 }.len.toNat ∧ { s with len := 18 }.len.toNat ≤ 8192
      ∧ readBytes s.tb 0 18 = none ∧ s.len.toNat ≤ 8192 ∧ readBytes s.tb 0 s.len.toNat = some bytes17 := by decide

/-- RedgapStripsBeforeSyncs: past TB, an unwritten byte, and V130's bytes. -/
theorem witness_RedgapStripsBeforeSyncs :
    let s := { track bytes17 with target := 14 }
    s.flag .fault = false ∧ 8192 < { s with len := 8193 }.len.toNat ∧ { s with len := 18 }.len.toNat ≤ 8192
      ∧ readBytes s.tb 0 18 = none ∧ s.len.toNat ≤ 8192 ∧ readBytes s.tb 0 s.len.toNat = some bytes17 := by decide

/-- ReduceReachesTheTarget: past TB, an unwritten byte, and V130's bytes. -/
theorem witness_ReduceReachesTheTarget :
    let s := { track bytes17 with target := 8 }
    s.flag .fault = false ∧ 8192 < { s with len := 8193 }.len.toNat ∧ { s with len := 18 }.len.toNat ≤ 8192
      ∧ readBytes s.tb 0 18 = none ∧ s.len.toNat ≤ 8192 ∧ readBytes s.tb 0 s.len.toNat = some bytes17 := by decide

/-- FaultChangesNothingElse: V158. -/
theorem witness_FaultChangesNothingElse :
    State.reset.flag .fault = false ∧ (ran (exec .decsec State.reset)).map (fun t => t.flag .fault) = some true := by decide

/-- EveryCommandCompletesOrFaults: a command that completes and one that faults. -/
theorem witness_EveryCommandCompletesOrFaults :
    State.reset.flag .fault = false ∧ (ran (exec .nop State.reset)).map (fun t => (t.flag .done, t.flag .fault)) = some (true, false)
      ∧ (ran (exec .cycdet State.reset)).map (fun t => (t.flag .done, t.flag .fault)) = some (false, true) := by decide

/-- UnlistedFlagsAreUnchanged, UnlistedStateIsUnchanged: a completed command on a state with flags set. -/
theorem witness_UnlistedFlagsAreUnchanged :
    (ran (exec .syncflg { State.reset with status := 0x0E })).map (fun t => (t.status, t.zflags)) = some (0x0F, 0x40) := by decide

theorem witness_UnlistedStateIsUnchanged :
    Instr.enc4 ≠ .sreset ∧ (ran (exec .enc4 State.reset)).isSome = true ∧ Reg.p0 ∉ writtenRegs .enc4
      ∧ Buf.tb ∉ writtenBufs .enc4 := by decide

theorem witness_NoCommandReadsFixgcr : Instr.cycdet ≠ .sreset := by decide

/-- ResultRegistersAreOutputsOnly: a command that completes and one that faults, with the registers each writes. -/
theorem witness_ResultRegistersAreOutputsOnly :
    let w (t : State) : Reg → Bool := fun r => decide (t.flag .fault = false ∧ r ∈ writtenRegs .dec4)
    Instr.dec4 ≠ .sreset ∧ (ran (exec .dec4 State.reset)).isSome = true ∧ (ran (exec .decsec State.reset)).isSome = true
      ∧ w State.reset .valid = true ∧ w State.reset .res = false ∧ w broken .valid = false := by decide

/-- RegisterMapAsStated: reserved indices on both sides of a row, rows that may be written, and a CMD write. -/
theorem witness_RegisterMapAsStated :
    0x0F ∉ registerMap.map MapRow.index ∧ 0x50 ∉ registerMap.map MapRow.index
      ∧ (⟨0x0E, .bufsel, 1, some 0⟩ : MapRow) ∈ registerMap ∧ (⟨0x40, .capmin 0, 16, none⟩ : MapRow) ∈ registerMap
      ∧ 0x0E ∉ [0x30, 0x31, 0x32] ∧ 0x1FF ≠ 0xFF
      ∧ (ran (startCommand params 0x1FF State.reset)).isSome = true ∧ 0x2F ≠ 0x30 ∧ 0x31 ≠ 0x30 := by decide

/-- FirstFailingCheckIsReported: a failing check of each code, and none. -/
theorem witness_FirstFailingCheckIsReported :
    Inv State.reset ∧ State.reset.flag .fault = false ∧ expectedFault .encsec { State.reset with pos := 7839 } = 0x02
      ∧ expectedFault .encsec { State.reset with pos := 7838, inj := 0 } = 0x03
      ∧ expectedFault .encsec { State.reset with pos := 7838 } = 0x04
      ∧ expectedFault .alignsel { State.reset with cycl := 1, alignovr := 0x13 } = 0x05
      ∧ expectedFault .fsync State.reset = 0 := by decide

/-- BufferWriteReadsBack: the last address of each buffer and the one past it. -/
theorem witness_BufferWriteReadsBack :
    bufCap .sb ≤ 256 ∧ 255 < bufCap .sb ∧ bufCap .tb ≤ 8192 ∧ 8191 < bufCap .tb ∧ 16383 < bufCap .wb := by decide

/-- HostReadHasNoSideEffect: a read of what holds a value, and one of what holds none. -/
theorem witness_HostReadHasNoSideEffect :
    hostView params State.reset .reg 0x09 = some 1 ∧ hostView params State.reset (.buf .tb) 0 = none := by decide

theorem witness_AbsentU5IsIllegalAndReadsZero : noU5.hasU5 = false ∧ State.reset.flag .fault = false := by decide

/-- EveryStepKeepsInv: a step from a state that satisfies the invariant. -/
theorem witness_EveryStepKeepsInv :
    Inv (State.reset.withFetchWord 8 0x05) ∧ (ran (step (State.reset.withFetchWord 8 0x05))).isSome = true := by decide

/-- EveryRunEndsCompletedOrFaulted: a completed run whose CMD write carries the number last read, and other moves after it;
and a run that ends in a platform reset. -/
theorem witness_EveryRunEndsCompletedOrFaulted :
    runMoves [] State.reset = .next State.reset ∧ hostNumber State.reset .lastRead ≠ 0xFF
      ∧ (∀ m ∈ [HostMove.read .reg 0x31], m ≠ .reset ∧ ∀ x, m ≠ .write .reg 0x30 x)
      ∧ (∃ t, runMoves ([] ++ .write .reg 0x30 .lastRead :: [.read .reg 0x31]) State.reset = .next t ∧ t.flag .fault = false)
      ∧ lastCommand [.write .reg 0x30 (.imm 0x00), .write .reg 0x30 (.imm 0x1FF)] State.reset none = some 0x1FF
      ∧ lastCommand [.write .reg 0x30 (.imm 0x00), .reset] State.reset none = none := by
  refine ⟨rfl, by decide, by simp, ⟨{ State.reset with status := 0x01, hostData := 0x01 }, eq_next_of_ran (by decide), by decide⟩,
    by decide, by decide⟩

end Sys2Proof.Tests
end

section
/-! The unit U5 and its absence (00_scope.md R12): a number that is no command faults the block, and the host port treats
the registers of an absent U5 as zero and read-only. -/

namespace Sys2Proof.Machine

/-- Every register is found at its index (10_state.md R37). -/
@[simp] theorem regAt_regIndex (r : Reg) : regAt (regIndex r) = some r := by
  cases r
  case capmin z => revert z; decide
  case cap z => revert z; decide
  case capmax z => revert z; decide
  all_goals rfl

@[simp] theorem hostView_regIndex (c : Config) (s : State) (r : Reg) : hostView c s .reg (regIndex r) = readReg c s r := by
  simp [hostView]

@[simp] theorem hostStore_regIndex (c : Config) (r : Reg) (v : Nat) (s : State) :
    hostStore c .reg (regIndex r) v s = writeReg c s r v := by
  simp [hostStore]

theorem readReg_of_absent {c : Config} {r : Reg} (hc : c.hasU5 = false) (hr : regIsU5 r = true) (s : State) :
    readReg c s r = some 0 := if_pos (by simp [hc, hr])

theorem writeReg_of_absent {c : Config} {r : Reg} (hc : c.hasU5 = false) (hr : regIsU5 r = true) (s : State) (v : Nat) :
    writeReg c s r v = s := if_pos (by simp [hc, hr])

/-- The opcode of `i` decodes to `i` wherever the unit of `i` is present, and is rejected by name where it is absent
(30_encoding.md R82, R84). -/
theorem decode_encode (i : Instr) : Laws.OpcodeWord.Statement i := by
  cases i <;> exact fun _ => rfl

/-- The opcode of a command of an absent U5 is no command (00_scope.md R12). -/
theorem decodeWrite_encode_of_absent {c : Config} {i : Instr} (hc : c.hasU5 = false) (hi : i.isU5 = true) :
    decodeWrite c (encode i).toNat = .error .unitAbsent := by
  rw [decodeWrite_of_lt (encode i).isLt, BitVec.ofNat_toNat, BitVec.setWidth_eq, decode_encode i c]
  simp [WellFormed, hc, hi]

/-- A number that is no command raises `FLT_ILLCMD` on an unfaulted block (60_exceptions.md R243). -/
theorem startCommand_of_decode_error {c : Config} {n : Nat} {e : DecodeError} {s : State}
    (hd : decodeWrite c n = .error e) (hs : s.flag .fault = false) :
    startCommand c n s = .next (faulted 0x01 { s with cmd := BitVec.ofNat 8 n }) := by
  have hrun : startCommand c n s = runCommand (fun _ => .error .illCmd) { s with cmd := BitVec.ofNat 8 n } := by
    simp only [startCommand, hd]
  rw [hrun]
  exact runCommand_of_error (c := .illCmd) hs rfl

/-- The numbers 0x40 to 0x43 are the opcodes of U5's commands (30_encoding.md R82). -/
theorem exists_isU5_encode {op : Nat} (h : op ∈ ([0x40, 0x41, 0x42, 0x43] : List Nat)) :
    ∃ i : Instr, i.isU5 = true ∧ (encode i).toNat = op := by
  simp only [List.mem_cons, List.not_mem_nil, or_false] at h
  obtain rfl | rfl | rfl | rfl := h
  · exact ⟨.alignsel, rfl, rfl⟩
  · exact ⟨.redrun, rfl, rfl⟩
  · exact ⟨.redgap, rfl, rfl⟩
  · exact ⟨.reduce, rfl, rfl⟩

/-- Settles O57: U5's opcodes decode to no command where U5 is absent, and the host port answers its registers by the
absent-unit rule. -/
theorem absentU5IsIllegalAndReadsZero : Obligations.AbsentU5IsIllegalAndReadsZero := by
  refine ⟨rfl, fun c s hc => ⟨fun op hop hs => ?_, fun r hr v => ?_⟩⟩
  · obtain ⟨i, hi, rfl⟩ := exists_isU5_encode hop
    exact startCommand_of_decode_error (decodeWrite_encode_of_absent hc hi) hs
  · have hU5 : ∀ r ∈ [Reg.target, .runbyte, .minrun, .alignovr, .tag], regIsU5 r = true := by decide
    rw [hostView_regIndex, hostStore_regIndex]
    exact ⟨readReg_of_absent hc (hU5 r hr) s, writeReg_of_absent hc (hU5 r hr) s v⟩

end Sys2Proof.Machine
end

section
/-! The register map (10_state.md R37): the rows of the map, what a host write to a register leaves in every
register and buffer, and the value CMD holds after a command. -/

namespace Sys2Proof.Machine

/-! ### The rows of the map -/

/-- The width of a register in bits (10_state.md R37). -/
def regWidth : Reg → Nat
  | .bufsel => 1
  | .strat => 2
  | .valid | .fixgcr => 3
  | .pos | .endPos | .len | .cycs | .cycl | .target | .res | .outlen | .padbits
  | .capmin _ | .cap _ | .capmax _ | .allow => 16
  | _ => 8

theorem index_of_mem_registerMap : ∀ x ∈ registerMap, x.index = regIndex x.reg := by decide

theorem width_of_mem_registerMap : ∀ x ∈ registerMap, x.width = regWidth x.reg := by decide

/-- After reset a register holds its row's reset value, or no value (70_reset_and_hazards.md R261). -/
theorem readReg_reset_of_mem_registerMap :
    ∀ x ∈ registerMap, readReg params State.reset x.reg = x.reset.map (BitVec.ofNat 16) := by decide

/-- No register stands in two rows. -/
theorem reg_inj_of_mem_registerMap {x y : MapRow} (hx : x ∈ registerMap) (hy : y ∈ registerMap) :
    y.reg = x.reg ↔ y = x :=
  have nodup : (registerMap.map MapRow.reg).Nodup := by decide
  ⟨fun h => List.inj_on_of_nodup_map nodup hy hx h, fun h => h ▸ rfl⟩

theorem regIndex_mem_registerMap (r : Reg) : regIndex r ∈ registerMap.map MapRow.index := by
  cases r
  case capmin z | cap z | capmax z => revert z; decide
  all_goals decide

/-- The map is read the same from both sides; `regAt_regIndex` is the other direction. -/
theorem regIndex_of_regAt {a : Nat} {r : Reg} (h : regAt a = some r) : regIndex r = a := by
  unfold regAt at h
  split at h <;> cases h <;> rfl

/-- An index in no row of the map is reserved. -/
theorem regAt_of_not_mem_registerMap {a : Nat} (h : a ∉ registerMap.map MapRow.index) : regAt a = none := by
  cases hr : regAt a with
  | none => rfl
  | some r => exact absurd (regIndex_of_regAt hr ▸ regIndex_mem_registerMap r) h

/-! ### A host write to a register -/

/-- Writing one zone's item: that item reads back and the other three keep theirs. -/
theorem zoneGet_zoneSet (m : Zones) (i j : BitVec 2) (v : Word) :
    zoneGet (zoneSet m i v) j = if j = i then some v else zoneGet m j := by
  have zones : ∀ k : BitVec 2, k = 0 ∨ k = 1 ∨ k = 2 ∨ k = 3 := by decide
  obtain rfl | rfl | rfl | rfl := zones i <;> obtain rfl | rfl | rfl | rfl := zones j <;> rfl

/-- A write to a register changes what that register reads and no other (10_state.md R37). -/
theorem readReg_writeReg (r r' : Reg) (s : State) (v : Nat) :
    readReg params (writeReg params s r v) r' =
      if r' = r then readReg params (writeReg params s r v) r else readReg params s r' := by
  cases r <;> cases r'
  case capmin.capmin | cap.cap | capmax.capmax => simp [readReg, writeReg, regIsU5, zoneGet_zoneSet]
  all_goals rfl

/-- A write stores the low bits at the register's width (10_state.md R37); STATUS and FAULTC are read-only. -/
theorem readReg_writeReg_self {r : Reg} (hs : r ≠ .status) (hf : r ≠ .faultc) (s : State) (v : Nat) :
    readReg params (writeReg params s r v) r = some (BitVec.ofNat 16 (v % 2 ^ regWidth r)) := by
  rw [← BitVec.toNat_ofNat, BitVec.ofNat_toNat]
  cases r
  case status => exact absurd rfl hs
  case faultc => exact absurd rfl hf
  case capmin | cap | capmax => simp [readReg, writeReg, regIsU5, zoneGet_zoneSet, regWidth]
  all_goals rfl

/-- A host write to a register leaves every buffer (20_memory.md R60). -/
theorem hostStore_reg_mem (c : Config) (a v : Nat) (s : State) (b : Buf) :
    (hostStore c .reg a v s).mem b = s.mem b := by
  have write (r : Reg) : (writeReg c s r v).mem b = s.mem b := by
    unfold writeReg
    split
    · rfl
    · cases r <;> rfl
  cases hr : regAt a with
  | none => simp only [hostStore, hr]
  | some r => simpa only [hostStore, hr] using write r

/-- A host write to an index other than CMD's is that store alone. -/
theorem hostMove_write_reg {a : Nat} (h : a ≠ 0x30) (c : Config) (v : HostValue) (s : State) :
    hostMove c (.write .reg a v) s = .next (hostStore c .reg a (hostNumber s v) s) :=
  if_neg fun hc => h hc.2

/-! ### CMD after a command

No rule writes CMD (10_state.md R31), so the byte that started a command stays in it. -/

/-- The state that the checks `x` answer, if they answer one, has the CMD of `s`. -/
def KeepsCmd (s : State) (x : Except FaultCode State) : Prop := ∀ t, x = .ok t → t.cmd = s.cmd

theorem KeepsCmd.error {s : State} {e : FaultCode} : KeepsCmd s (.error e) := fun _ h => nomatch h

theorem KeepsCmd.ok {s t : State} (h : t.cmd = s.cmd) : KeepsCmd s (.ok t) := fun _ e => Except.ok.inj e ▸ h

theorem KeepsCmd.ite {s : State} {p : Prop} [Decidable p] {x y : Except FaultCode State}
    (hx : KeepsCmd s x) (hy : KeepsCmd s y) : KeepsCmd s (if p then x else y) := by
  split
  · exact hx
  · exact hy

/-- A value read on the way does not matter. -/
theorem KeepsCmd.bind {α : Type} {s : State} (x : Except FaultCode α) {f : α → Except FaultCode State}
    (hf : ∀ a, KeepsCmd s (f a)) : KeepsCmd s (x >>= f) := by
  intro t h
  obtain ⟨a, -, ha⟩ := bind_ok_iff.1 h
  exact hf a t ha

/-- A store into a buffer on the way keeps CMD. -/
theorem KeepsCmd.bind_memWrite {s u : State} (hu : u.cmd = s.cmd) (b : Buf) (a : Nat) (l : List Byte)
    {f : State → Except FaultCode State} (hf : ∀ t, t.cmd = s.cmd → KeepsCmd s (f t)) :
    KeepsCmd s (memWrite u b a l >>= f) := by
  intro t h
  obtain ⟨w, hw, ht⟩ := bind_ok_iff.1 h
  obtain ⟨-, rfl⟩ := memWrite_ok_iff.1 hw
  exact hf _ (by rw [State.setMem_cmd, hu]) t ht

theorem keepsCmd_searchCommand (find : List Byte → Option Nat) (s : State) : KeepsCmd s (searchCommand find s) := by
  intro t h
  obtain ⟨-, -, _, -, ⟨_, -, rfl⟩ | ⟨-, rfl⟩⟩ := searchCommand_ok h <;> rfl

theorem keepsCmd_reduceCommand (f : List Byte → List Byte) (s : State) : KeepsCmd s (reduceCommand f s) := by
  intro t h
  obtain ⟨-, _, -, -, rfl⟩ := reduceCommand_ok h
  rfl

theorem keepsCmd_ruleEncsec (c : Config) (s : State) : KeepsCmd s (ruleEncsec c s) := by
  refine .ite .error ?_
  split
  · exact .error
  · exact .bind _ fun _ => .bind_memWrite rfl _ _ _ fun _ ht => .ok ht

theorem keepsCmd_ruleDecsec (c : Config) (s : State) : KeepsCmd s (ruleDecsec c s) :=
  .ite .error <| .bind _ fun _ =>
    .bind_memWrite rfl _ _ _ fun _ ht => .bind_memWrite ht _ _ _ fun _ hu => .ok hu

theorem keepsCmd_ruleBadgcr (s : State) : KeepsCmd s (ruleBadgcr s) :=
  .ite .error <| .bind _ fun _ => .bind _ fun _ => .ok rfl

theorem keepsCmd_ruleSyncflg (c : Config) (s : State) : KeepsCmd s (ruleSyncflg c s) :=
  .ite .error <| .bind _ fun _ => .ok rfl

theorem keepsCmd_ruleCycdet (s : State) : KeepsCmd s (ruleCycdet s) := by
  unfold ruleCycdet
  split
  · exact .ite .error <| .ite .error <| .ite .error <| .bind _ fun _ => .ok rfl
  · exact .error

theorem keepsCmd_ruleIsshift (s : State) : KeepsCmd s (ruleIsshift s) := .bind _ fun _ => .ok rfl

theorem keepsCmd_ruleAlignbs (s : State) : KeepsCmd s (ruleAlignbs s) :=
  .bind _ fun _ => .bind_memWrite rfl _ _ _ fun _ ht => .ok ht

theorem keepsCmd_ruleAlignsel (c : Config) (s : State) : KeepsCmd s (ruleAlignsel c s) := by
  refine .ite .error ?_
  split
  · exact .error
  · exact .ite .error <| .bind _ fun _ =>
      .bind_memWrite rfl _ _ _ fun _ ht => .bind_memWrite ht _ _ _ fun _ hu => .ok hu

/-- No command but SRESET writes CMD (10_state.md R31). -/
theorem keepsCmd_ruleUnder (c : Config) {i : Instr} (h : i ≠ .sreset) (s : State) : KeepsCmd s (ruleUnder c i s) := by
  cases i with
  | nop | enc4 | dec4 => exact .ok rfl
  | encsec => exact keepsCmd_ruleEncsec c s
  | decsec => exact keepsCmd_ruleDecsec c s
  | fsync | fhdr => exact keepsCmd_searchCommand _ s
  | badgcr => exact keepsCmd_ruleBadgcr s
  | syncflg => exact keepsCmd_ruleSyncflg c s
  | cycdet => exact keepsCmd_ruleCycdet s
  | isshift => exact keepsCmd_ruleIsshift s
  | alignbs => exact keepsCmd_ruleAlignbs s
  | alignsel => exact keepsCmd_ruleAlignsel c s
  | redrun | redgap | reduce => exact keepsCmd_reduceCommand _ s
  | sreset => exact absurd rfl h

/-- The fault entry and the DONE flag do not touch CMD either (60_exceptions.md R241). -/
theorem runCommand_cmd {rule : State → Except FaultCode State} (h : ∀ s, KeepsCmd s (rule s)) {s t : State}
    (hr : runCommand rule s = .next t) : t.cmd = s.cmd := by
  obtain ⟨-, e⟩ | ⟨-, _, -, e⟩ | ⟨-, u, hu, e⟩ := runCommand_cases rule s <;>
    obtain rfl := Host.Outcome.next.inj (e.symm.trans hr)
  · rfl
  · rfl
  · exact h (s.setFlag .done false) u hu

/-- CMD holds the low byte of the number written to it (10_state.md R31). -/
theorem startCommand_cmd {c : Config} {n : Nat} (hn : n ≠ 0xFF) {s t : State} (h : startCommand c n s = .next t) :
    t.cmd = BitVec.ofNat 8 n := by
  unfold startCommand at h
  split at h
  case h_1 i hi =>
    have hi := decodeWrite_ne_sreset hn hi
    exact runCommand_cmd (keepsCmd_ruleUnder c hi) (execUnder_eq_runCommand hi _ ▸ h)
  case h_2 => exact runCommand_cmd (fun _ => .error) h

/-- Settles O54: the rows and the reserved indices by the lemmas on the map, a row's write by `readReg_writeReg`, and
CMD because no rule writes it. -/
theorem registerMapAsStated : Obligations.RegisterMapAsStated := by
  refine ⟨fun s a v ha => ?_, fun x hx => ?_, fun _ _ => ⟨rfl, rfl⟩, fun s t v hv ht => ?_, fun s a v ha => ?_,
    fun x hx y hy s v hro => ?_⟩
  · have reserved := regAt_of_not_mem_registerMap ha
    simp only [hostView, hostStore, reserved, and_self]
  · have view (s : State) : hostView params s .reg x.index = readReg params s x.reg := by
      rw [index_of_mem_registerMap x hx, hostView_regIndex]
    exact ⟨(view _).trans (readReg_reset_of_mem_registerMap x hx), view⟩
  · have cmd : hostView params t .reg 0x30 = some (t.cmd.setWidth 16) := rfl
    rw [cmd, startCommand_cmd hv ht, ← BitVec.ofNat_toNat, BitVec.toNat_ofNat]
  · exact ⟨hostMove_write_reg ha params v s, hostStore_reg_mem params a _ s⟩
  · have index := index_of_mem_registerMap x hx
    have hs : x.reg ≠ .status := fun h => hro (by rw [index, h]; decide)
    have hf : x.reg ≠ .faultc := fun h => hro (by rw [index, h]; decide)
    rw [index, index_of_mem_registerMap y hy, hostStore_regIndex, hostView_regIndex, hostView_regIndex,
      readReg_writeReg, readReg_writeReg_self hs hf, ← width_of_mem_registerMap x hx]
    exact if_congr (reg_inj_of_mem_registerMap hx hy) rfl rfl

end Sys2Proof.Machine
end

section
/-! The opcode map (30_encoding.md R82, R84): the encoder gives its rows, and a byte that is the opcode of no command is
rejected. -/

namespace Sys2Proof.Machine

/-- The map read from the opcode side names a command only at that command's own opcode (30_encoding.md R82). -/
theorem encode_of_opcodeMap_eq_some {op : Byte} {i : Instr} (h : opcodeMap op = some i) : encode i = op := by
  apply BitVec.eq_of_toNat_eq
  unfold opcodeMap at h
  split at h <;> cases h <;> exact Eq.symm ‹_›

/-- A byte that is the opcode of no command is illegal under any parameters (30_encoding.md R84). -/
theorem decode_of_forall_encode_ne {c : Config} {op : Byte} (h : ∀ i, encode i ≠ op) :
    decode c op = .error .illegalOpcode := by
  have hnone : opcodeMap op = none :=
    Option.eq_none_iff_forall_ne_some.2 fun i hi => h i (encode_of_opcodeMap_eq_some hi)
  simp only [decode, hnone]

/-- U5 is present at the machine's parameters, so there every command is well-formed (00_scope.md R12). -/
theorem wellFormed_params (i : Instr) : WellFormed params i = true := rfl

/-- The machine's decoder reads every command back from the eight bits of its opcode (30_encoding.md R80, R82). -/
theorem decodeTableWord_encode (i : Instr) : decodeTableWord 8 (encode i).toNat = some i := by
  have hbyte : BitVec.ofNat 8 ((encode i).toNat % 2 ^ 8) = encode i := by
    rw [Nat.mod_eq_of_lt (encode i).isLt, BitVec.ofNat_toNat, BitVec.setWidth_eq]
  simp only [decodeTableWord, hbyte, decode_encode i params, wellFormed_params, if_true]

/-- Settles O1: each row is `decodeTableWord_encode` at the command of the row, and a byte outside the listed opcodes is
the opcode of no command. -/
theorem opcodeMapIsComplete : Obligations.OpcodeMapIsComplete := by
  refine ⟨decodeTableWord_encode .nop, decodeTableWord_encode .enc4, decodeTableWord_encode .dec4,
    decodeTableWord_encode .encsec, decodeTableWord_encode .decsec, decodeTableWord_encode .fsync,
    decodeTableWord_encode .fhdr, decodeTableWord_encode .badgcr, decodeTableWord_encode .syncflg,
    decodeTableWord_encode .cycdet, decodeTableWord_encode .isshift, decodeTableWord_encode .alignbs,
    decodeTableWord_encode .alignsel, decodeTableWord_encode .redrun, decodeTableWord_encode .redgap,
    decodeTableWord_encode .reduce, decodeTableWord_encode .sreset, fun op hop => ?_⟩
  refine decode_of_forall_encode_ne ?_
  rintro i rfl
  cases i <;> exact hop (by decide)

end Sys2Proof.Machine
end

section
/-! The GCR groups (40_gcr_codec.md R100 to R105): a group as its five bytes and as its eight codes, the code table read
from both sides, and what ENC4 and DEC4 leave on an unfaulted block. -/

namespace Sys2Proof.Machine

/-! ### The bytes and the codes of a group -/

/-- The five bytes of a group, in stream order, are the group (40_gcr_codec.md R100). -/
theorem groupOf_groupByte (v : Group) :
    groupOf (groupByte v 0) (groupByte v 1) (groupByte v 2) (groupByte v 3) (groupByte v 4) = v := by
  have join (a n : Nat) : v.extractLsb' (a + 8) n ++ v.extractLsb' a 8 = v.extractLsb' a (n + 8) :=
    BitVec.extractLsb'_append_extractLsb'_eq_extractLsb' rfl
  simp only [groupOf, groupByte, Nat.reduceMul, Nat.reduceSub]
  rw [join 24 8, join 16 16, join 8 24, join 0 32]
  exact BitVec.extractLsb'_eq_self

/-- A byte's two codes stand in the stream one after the other (40_gcr_codec.md R100). -/
theorem append_byteCodes {n : Nat} (c : Config) (x : BitVec n) (p : Byte) :
    x ++ byteCodes c p = x ++ gcrCode c (p.extractLsb' 4 4) ++ gcrCode c (p.extractLsb' 0 4) :=
  BitVec.append_assoc'

/-- A group is the eight codes of its nibbles, high nibble first (40_gcr_codec.md R100). -/
theorem encGroup_eq_codes (c : Config) (p0 p1 p2 p3 : Byte) :
    encGroup c p0 p1 p2 p3 =
      gcrCode c (p0.extractLsb' 4 4) ++ gcrCode c (p0.extractLsb' 0 4)
        ++ gcrCode c (p1.extractLsb' 4 4) ++ gcrCode c (p1.extractLsb' 0 4)
        ++ gcrCode c (p2.extractLsb' 4 4) ++ gcrCode c (p2.extractLsb' 0 4)
        ++ gcrCode c (p3.extractLsb' 4 4) ++ gcrCode c (p3.extractLsb' 0 4) := by
  unfold encGroup
  rw [append_byteCodes, append_byteCodes, append_byteCodes]
  rfl

/-! ### The code table read from both sides -/

/-- A code is read back as the nibble that has it, and as no other (30_encoding.md R86, R87). -/
theorem gcrNibble_eq_some_iff {q : BitVec 5} {n : BitVec 4} : gcrNibble params q = some n ↔ gcrCode params n = q := by
  revert q n; decide +kernel

/-- Two valid codes give the byte of their nibbles (40_gcr_codec.md R104). -/
theorem plainByte_of_codes {v : Group} {j : Nat} {hi lo : BitVec 4} (hhi : gcrCode params hi = groupCode v (2 * j))
    (hlo : gcrCode params lo = groupCode v (2 * j + 1)) : plainByte params v j = hi ++ lo := by
  rw [plainByte, highHalf, lowHalf, gcrNibble_eq_some_iff.2 hhi, gcrNibble_eq_some_iff.2 hlo, BitVec.append_def,
    BitVec.shiftLeftZeroExtend_eq, BitVec.setWidth'_eq]

/-- `ok[j]` says that both codes are codes of the table (40_gcr_codec.md R104). -/
theorem plainOk_iff {v : Group} {j : Nat} :
    plainOk params v j = true ↔
      ∃ hi lo, gcrCode params hi = groupCode v (2 * j) ∧ gcrCode params lo = groupCode v (2 * j + 1) := by
  simp only [plainOk, Bool.and_eq_true, Option.isSome_iff_exists, gcrNibble_eq_some_iff, exists_and_left,
    exists_and_right]

/-- An invalid code in either half gives the sentinel: it has every bit set, so the other half does not show
(40_gcr_codec.md R104). -/
theorem plainByte_of_not_plainOk {c : Config} {v : Group} {j : Nat} (h : plainOk c v j = false) :
    plainByte c v j = sentinel := by
  have all (x : Byte) : sentinel ||| x = sentinel := BitVec.allOnes_or
  rw [plainOk, Bool.and_eq_false_iff, Option.isSome_eq_false_iff, Option.isSome_eq_false_iff, Option.isNone_iff_eq_none,
    Option.isNone_iff_eq_none] at h
  obtain hhi | hlo := h
  · rw [plainByte, highHalf, hhi, all]
  · rw [plainByte, lowHalf, hlo, BitVec.or_comm, all]

theorem plainBytes_getElem? {c : Config} {v : Group} {j : Nat} (h : j < 4) :
    (plainBytes c v)[j]? = some (plainByte c v j) := by
  simp [plainBytes, h]

/-! ### VALID -/

theorem validCount_eq_findIdx (c : Config) (v : Group) :
    validCount c v = (List.range 4).findIdx fun j => !plainOk c v j := by
  rw [validCount, List.takeWhile_eq_take_findIdx_not, List.length_take]
  exact min_eq_left List.findIdx_le_length

theorem validCount_le (c : Config) (v : Group) : validCount c v ≤ 4 := by
  rw [validCount_eq_findIdx]
  exact List.findIdx_le_length

theorem plainOk_of_lt_validCount {c : Config} {v : Group} {j : Nat} (h : j < validCount c v) : plainOk c v j = true := by
  rw [validCount_eq_findIdx] at h
  simpa using List.not_of_lt_findIdx h

theorem plainOk_validCount {c : Config} {v : Group} (h : validCount c v < 4) : plainOk c v (validCount c v) = false := by
  rw [validCount_eq_findIdx] at h ⊢
  simpa using List.findIdx_getElem (w := h.trans_eq List.length_range.symm)

/-- VALID's three bits hold the count (40_gcr_codec.md R105). -/
theorem toNat_ofNat_validCount (c : Config) (v : Group) : (BitVec.ofNat 3 (validCount c v)).toNat = validCount c v := by
  rw [BitVec.toNat_ofNat]
  exact Nat.mod_eq_of_lt (Nat.lt_of_le_of_lt (validCount_le c v) (by decide))

/-! ### The commands -/

/-- ENC4 writes the group's bytes to G0..G4 and sets DONE (40_gcr_codec.md R100). -/
theorem exec_enc4_of_unfaulted {s : State} (h : s.flag .fault = false) :
    exec .enc4 s = .next
      (let v := encGroup params s.p0 s.p1 s.p2 s.p3
       { s with g0 := groupByte v 0, g1 := groupByte v 1, g2 := groupByte v 2, g3 := groupByte v 3
                g4 := groupByte v 4, status := s.status ||| 0x01 }) := by
  refine (runCommand_of_ok (rule := ruleEnc4 params) h rfl).trans (congrArg Host.Outcome.next ?_)
  rw [← withFlag_done_done]
  rfl

/-- DEC4 writes the plain bytes to P0..P3, their count to VALID, and sets DONE (40_gcr_codec.md R104). -/
theorem exec_dec4_of_unfaulted {s : State} (h : s.flag .fault = false) :
    exec .dec4 s = .next
      (let v := groupOf s.g0 s.g1 s.g2 s.g3 s.g4
       { s with p0 := plainByte params v 0, p1 := plainByte params v 1, p2 := plainByte params v 2
                p3 := plainByte params v 3, valid := BitVec.ofNat 3 (validCount params v)
                status := s.status ||| 0x01 }) := by
  refine (runCommand_of_ok (rule := ruleDec4 params) h rfl).trans (congrArg Host.Outcome.next ?_)
  rw [← withFlag_done_done]
  rfl

/-- Settles O11: the table by evaluation; the bytes written are those of the group, and the group is its eight codes. -/
theorem enc4PacksTheEightCodes : Obligations.Enc4PacksTheEightCodes := by
  refine ⟨by decide, fun s hs => ⟨_, exec_enc4_of_unfaulted hs, rfl, ?_⟩⟩
  exact (groupOf_groupByte _).trans (encGroup_eq_codes params s.p0 s.p1 s.p2 s.p3)

/-- Settles O12: a plain byte by its two codes, or the sentinel, and VALID by `validCount`'s three lemmas. -/
theorem dec4InvertsTheCodes : Obligations.Dec4InvertsTheCodes := by
  refine fun s hs => ⟨_, exec_dec4_of_unfaulted hs, rfl, ?_⟩
  rintro V good rfl hgood
  have hok (j : Nat) : good j ↔ plainOk params (groupOf s.g0 s.g1 s.g2 s.g3 s.g4) j = true :=
    (hgood j).trans plainOk_iff.symm
  refine ⟨fun j hj hi lo hhi hlo => ?_, fun j hj hbad => ?_, ?_⟩
  · exact (plainBytes_getElem? hj).trans (congrArg some (plainByte_of_codes hhi hlo))
  · rw [hok, Bool.not_eq_true] at hbad
    exact (plainBytes_getElem? hj).trans (congrArg some (plainByte_of_not_plainOk hbad))
  · simp only [toNat_ofNat_validCount, hok, Bool.not_eq_true]
    exact ⟨validCount_le _ _, fun j => plainOk_of_lt_validCount, plainOk_validCount⟩

end Sys2Proof.Machine
end

section
/-! ENCSEC (40_gcr_codec.md R110): its image under the default parameters, and what each of its checks answers. -/

namespace Sys2Proof.Machine

/-! ### The numbers of the SectorErrorCodes -/

/-- A code is read back from its number (30_encoding.md R90). -/
theorem sectorErrorOf_defaultErrNumber (e : SectorError) : sectorErrorOf params (defaultErrNumber e) = some e := by
  cases e <;> decide

theorem defaultErrNumber_inj {e f : SectorError} : defaultErrNumber e = defaultErrNumber f ↔ e = f := by
  refine ⟨fun h => ?_, congrArg _⟩
  rw [← Option.some_inj, ← sectorErrorOf_defaultErrNumber e, h, sectorErrorOf_defaultErrNumber]

/-- The eight numbers are those of the eight codes (30_encoding.md R90). -/
theorem mem_sectorNumbers_iff {v : Byte} : v ∈ sectorNumbers ↔ ∃ e, defaultErrNumber e = v := by
  have hall (e : SectorError) : e ∈ allSectorErrors := by cases e <;> decide
  have hmap : sectorNumbers = allSectorErrors.map defaultErrNumber := rfl
  simp [hmap, List.mem_map, hall]

theorem sectorErrorOf_eq_none {v : Byte} (h : v ∉ sectorNumbers) : sectorErrorOf params v = none := by
  refine List.find?_eq_none.2 fun e _ he => h (mem_sectorNumbers_iff.2 ⟨e, ?_⟩)
  exact eq_of_beq he

/-! ### The image -/

/-- The inversion of R110 by the injected code is the inversion by its number in INJ. -/
theorem invertIf_eq_flipIf (inj e : SectorError) (v : Byte) :
    invertIf inj e v = flipIf (defaultErrNumber inj) (defaultErrNumber e) v := by
  simp only [flipIf, invertIf, defaultErrNumber_inj]

/-- The header's plain bytes under the default layout (30_encoding.md R88). -/
theorem headerPlain_params (inj : SectorError) (track sector id0 id1 : Byte) :
    headerPlain params inj track sector id0 id1 =
      [invertIf inj .headerNotFound 0x08,
        invertIf inj .badHeaderChecksum
          (sector ^^^ track ^^^ invertIf inj .idMismatch id1 ^^^ invertIf inj .idMismatch id0),
        sector, track, invertIf inj .idMismatch id1, invertIf inj .idMismatch id0, 0x0F, 0x0F] := rfl

/-- The image with the numbers of 40_gcr_codec.md R110 is the image under the default parameters. -/
theorem sectorImage_params (inj : SectorError) (track sector id0 id1 : Byte) (pay : List Byte) :
    sectorImage params inj track sector id0 id1 pay =
      writtenImage (defaultErrNumber inj) track sector id0 id1 pay := by
  simp only [sectorImage, headerPlain_params, imageSyncByte, dataGcr, dataPlain, invertIf_eq_flipIf,
    ← defaultErrNumber_inj (e := inj)]
  rfl

/-- Every four plain bytes are five GCR bytes (40_gcr_codec.md R100). -/
theorem encBytes_length (c : Config) (l : List Byte) : (encBytes c l).length = 5 * (l.length / 4) := by
  induction l using encBytes.induct with
  | case1 p0 p1 p2 p3 r ih =>
    rw [encBytes, List.length_append, ih]
    simp only [groupBytes, List.length_map, List.length_range, List.length_cons]
    omega
  | case2 l h =>
    match l, h with
    | [], _ | [_], _ | [_, _], _ | [_, _, _], _ => simp [encBytes]
    | p0 :: p1 :: p2 :: p3 :: r, h => exact absurd rfl (h p0 p1 p2 p3 r)

/-- A data block has 325 GCR bytes, the second group zeroed or not (40_gcr_codec.md R110). -/
theorem dataGcr_length (c : Config) (inj : SectorError) {pay : List Byte} (h : pay.length = payloadLen) :
    (dataGcr c inj pay).length = dataGcrLen := by
  have hdg : (encBytes c (dataPlain c inj pay)).length = dataGcrLen := by
    simp only [encBytes_length, dataPlain, List.length_append, h, List.length_cons, List.length_nil]
    rfl
  unfold dataGcr
  split
  · simp only [List.length_append, List.length_take, List.length_drop, List.length_replicate, hdg]
    rfl
  · exact hdg

/-- The image has the length of R93, for every layout of a header's 8 plain bytes. -/
theorem sectorImage_length {c : Config} (hc : c.hdrLayout.length = 8) (inj : SectorError)
    (track sector id0 id1 : Byte) {pay : List Byte} (h : pay.length = payloadLen) :
    (sectorImage c inj track sector id0 id1 pay).length = sectorImgLen c := by
  simp only [sectorImage, sectorImgLen, List.length_append, List.length_replicate, encBytes_length, headerPlain,
    List.length_map, hc, dataGcr_length c inj h, hdrGcrLen]
  omega

/-! ### The checks, in their order -/

/-- The image would reach past TB (40_gcr_codec.md R110). -/
theorem ruleEncsec_of_outside {c : Config} {s : State} (h : tbCap < s.pos.toNat + sectorImgLen c) :
    ruleEncsec c s = .error .range := if_pos h

/-- INJ holds the number of no code (40_gcr_codec.md R110). -/
theorem ruleEncsec_of_no_code {c : Config} {s : State} (h : s.pos.toNat + sectorImgLen c ≤ tbCap)
    (hi : sectorErrorOf c s.inj = none) : ruleEncsec c s = .error .badArg := by
  rw [ruleEncsec, if_neg (Nat.not_lt.2 h), hi]

/-- A payload byte holds no value (40_gcr_codec.md R110). -/
theorem ruleEncsec_of_no_payload {c : Config} {s : State} {inj : SectorError}
    (h : s.pos.toNat + sectorImgLen c ≤ tbCap) (hi : sectorErrorOf c s.inj = some inj)
    (hp : readBytes s.sb 0 payloadLen = none) : ruleEncsec c s = .error .uninit := by
  rw [ruleEncsec, if_neg (Nat.not_lt.2 h), hi]
  exact bind_error_iff.2 (.inl (memRead_error_iff.2 (.inr ⟨rfl, .inr (Nat.le_refl _), hp⟩)))

/-- With every check passed ENCSEC stores the image at POS (40_gcr_codec.md R110). -/
theorem ruleEncsec_of_payload {c : Config} (hc : c.hdrLayout.length = 8) {s : State} {inj : SectorError}
    {pay : List Byte} (h : s.pos.toNat + sectorImgLen c ≤ tbCap) (hi : sectorErrorOf c s.inj = some inj)
    (hp : readBytes s.sb 0 payloadLen = some pay) :
    ruleEncsec c s = .ok { s with
      tb := writeBytes s.tb s.pos.toNat (sectorImage c inj s.track s.sector s.id0 s.id1 pay)
      pos := BitVec.ofNat 16 (s.pos.toNat + sectorImgLen c)
      outlen := BitVec.ofNat 16 (sectorImgLen c) } := by
  have fits : s.pos.toNat + (sectorImage c inj s.track s.sector s.id0 s.id1 pay).length ≤ bufCap .tb := by
    rwa [sectorImage_length hc inj _ _ _ _ (readBytes_length hp)]
  rw [ruleEncsec, if_neg (Nat.not_lt.2 h), hi]
  exact bind_ok_iff.2 ⟨pay, memRead_ok_iff.2 ⟨.inr (Nat.le_refl _), hp⟩,
    bind_ok_iff.2 ⟨_, memWrite_ok_iff.2 ⟨.inr fits, rfl⟩, rfl⟩⟩

/-- ENCSEC with a failing check, on an unfaulted block (60_exceptions.md R241). -/
theorem exec_encsec_of_error {s : State} {e : FaultCode} (hs : s.flag .fault = false)
    (h : ruleEncsec params (s.setFlag .done false) = .error e) :
    exec .encsec s = .next (faulted (faultNumber e) s) :=
  (exec_eq_runCommand (by decide) s).trans (runCommand_of_error hs h)

/-- ENCSEC with every check passed, on an unfaulted block (40_gcr_codec.md R110). -/
theorem exec_encsec_of_payload {s : State} {inj : SectorError} {pay : List Byte} (hs : s.flag .fault = false)
    (h : s.pos.toNat + 354 ≤ 8192) (hi : s.inj = defaultErrNumber inj) (hp : readBytes s.sb 0 256 = some pay) :
    exec .encsec s = .next { s with
      tb := writeBytes s.tb s.pos.toNat (sectorImage params inj s.track s.sector s.id0 s.id1 pay)
      pos := s.pos + 354, outlen := 354, status := s.status ||| 0x01 } := by
  have hrule := ruleEncsec_of_payload (c := params) rfl (s := s.setFlag .done false) h
    (hi ▸ sectorErrorOf_defaultErrNumber inj) hp
  have hpos : BitVec.ofNat 16 (s.pos.toNat + sectorImgLen params) = s.pos + 354 := by
    rw [BitVec.ofNat_add, BitVec.ofNat_toNat, BitVec.setWidth_eq]
    rfl
  refine (runCommand_of_ok hs hrule).trans (congrArg Host.Outcome.next ?_)
  rw [← withFlag_done_done, ← hpos]
  rfl

theorem stored_writeBytes (m : Memory) (a : Nat) (l : List Byte) : Stored m (writeBytes m a l) a l :=
  readByte_writeBytes m a l

/-- Settles O15: the three faults by the rule's checks in their order, the completion by `exec_encsec_of_payload`. -/
theorem encsecWritesTheSectorImage : Obligations.EncsecWritesTheSectorImage := by
  refine fun s hs => ⟨fun h => ?_, fun h hi => ?_, fun h hi hp => ?_, fun pay h hi hp => ?_⟩
  · exact exec_encsec_of_error hs (ruleEncsec_of_outside h)
  · exact exec_encsec_of_error hs (ruleEncsec_of_no_code h (sectorErrorOf_eq_none hi))
  · obtain ⟨inj, hinj⟩ := mem_sectorNumbers_iff.1 hi
    exact exec_encsec_of_error hs (ruleEncsec_of_no_payload h (hinj ▸ sectorErrorOf_defaultErrNumber inj) hp)
  · obtain ⟨inj, hinj⟩ := mem_sectorNumbers_iff.1 hi
    refine ⟨_, exec_encsec_of_payload hs h hinj.symm hp, rfl, ?_⟩
    rw [← hinj, ← sectorImage_params]
    exact ⟨sectorImage_length rfl inj _ _ _ _ (readBytes_length hp), stored_writeBytes _ _ _⟩

end Sys2Proof.Machine
end

section
/-! The Bitstream Scanner (41_bitstream_scanner.md): the scans of FSYNC and FHDR answer the first sync end and the first
header mark of their range, the test of BADGCR reads ten bits, and what each check of the four commands answers. -/

namespace Sys2Proof.Machine

/-! ### Sync ends -/

/-- A sync end is no byte of a sync (41_bitstream_scanner.md R141). -/
theorem SyncEnd.getD_ne {l : List Byte} {q : Nat} (h : SyncEnd l q) : l.getD q 0 ≠ syncByte := by
  obtain ⟨-, -, -, -, -, hq⟩ := h
  exact hq

theorem SyncEnd.lt_length {l : List Byte} {q : Nat} (h : SyncEnd l q) : q < l.length := by
  obtain ⟨-, -, hq, -⟩ := h
  exact hq

/-- A sync ends in a list with one byte more in front either where the sync begins at that byte or where one ended
before. -/
theorem syncEnd_cons {b : Byte} {l : List Byte} {q : Nat} :
    SyncEnd (b :: l) (q + 1) ↔ (b.getLsbD 0 = true ∧ 0 < q ∧ syncTail l 0 = some q) ∨ SyncEnd l q := by
  rw [syncTail_eq_some_iff]
  constructor
  · rintro ⟨_ | i, hi, hlen, hbit, hrun, hq⟩
    · refine .inl ⟨hbit, by omega, by omega, by simpa using hlen, fun k hk => ?_, by simpa using hq⟩
      simpa using hrun (k + 1) (by omega) (by omega)
    · refine .inr ⟨i, by omega, by simpa using hlen, by simpa using hbit, fun k h1 h2 => ?_, by simpa using hq⟩
      simpa using hrun (k + 1) (by omega) (by omega)
  · rintro (⟨hbit, hpos, -, hlen, hrun, hq⟩ | ⟨i, hi, hlen, hbit, hrun, hq⟩)
    · refine ⟨0, by omega, by simpa using hlen, hbit, fun k h1 h2 => ?_, by simpa using hq⟩
      obtain ⟨k, rfl⟩ := Nat.exists_eq_add_of_lt h1
      simpa using hrun k (by omega)
    · refine ⟨i + 1, by omega, by simpa using hlen, by simpa using hbit, fun k h1 h2 => ?_, by simpa using hq⟩
      obtain ⟨k, rfl⟩ := Nat.exists_eq_succ_of_ne_zero (Nat.ne_of_gt (Nat.zero_lt_of_lt h1))
      simpa using hrun k (by omega) (by omega)

/-- A sync seen from a later start is a sync of the whole list. -/
theorem SyncEnd.of_drop {l : List Byte} {n q : Nat} (h : SyncEnd (l.drop n) q) : SyncEnd l (n + q) := by
  induction n generalizing l with
  | zero => simpa using h
  | succ n ih =>
    cases l with
    | nil => simpa using h.lt_length
    | cons b l =>
      rw [Nat.add_right_comm]
      exact syncEnd_cons.2 (.inr (ih h))

/-- From a byte that belongs to no sync on, every later sync is still seen (41_bitstream_scanner.md R144: the search
continues from the byte after a sync). -/
theorem SyncEnd.drop {l : List Byte} {n q : Nat} (hn : l.getD n 0 ≠ syncByte) (hq : n < q) (h : SyncEnd l q) :
    SyncEnd (l.drop n) (q - n) := by
  obtain ⟨i, hi, hlen, hbit, hrun, hend⟩ := h
  have hni : n ≤ i := by
    by_contra hlt
    exact hn (hrun n (by omega) hq)
  have at' (k : Nat) (hk : n ≤ k) : (l.drop n).getD (k - n) 0 = l.getD k 0 := by
    simp [List.getD_eq_getElem?_getD, Nat.add_sub_of_le hk]
  refine ⟨i - n, by omega, by rw [List.length_drop]; omega, by rwa [at' i hni], fun k h1 h2 => ?_,
    by rwa [at' q (by omega)]⟩
  simpa using (at' (n + k) (by omega)).trans (hrun (n + k) (by omega) (by omega))

/-! ### Searches that answer the first place -/

section FirstPlace
variable {P : Nat → Prop} {x : Option Nat} {f : Nat → Nat} (sound : ∀ r, x = some r → ∃ q, r = f q ∧ P q)
  (passes : ∀ k, P k → ∃ q ≤ k, x = some (f q))
include sound passes

/-- An answer that is a place of `P` and passes none is the first place of `P`, and only that. -/
theorem eq_some_iff_first (hf : f.Injective) {q : Nat} : x = some (f q) ↔ P q ∧ ∀ q' < q, ¬ P q' := by
  have sound' {r : Nat} (h : x = some (f r)) : P r := by
    obtain ⟨k, hk, hP⟩ := sound _ h
    exact hf hk ▸ hP
  constructor
  · refine fun h => ⟨sound' h, fun q' hlt hq' => ?_⟩
    obtain ⟨r, hr, e⟩ := passes q' hq'
    have : q = r := hf (Option.some.inj (h.symm.trans e))
    omega
  · rintro ⟨hq, hfirst⟩
    obtain ⟨r, hr, e⟩ := passes q hq
    obtain rfl : r = q := hr.eq_of_not_lt fun hlt => hfirst r hlt (sound' e)
    exact e

theorem eq_none_iff_nowhere : x = none ↔ ∀ q, ¬ P q := by
  constructor
  · intro h q hq
    obtain ⟨r, -, e⟩ := passes q hq
    cases h.symm.trans e
  · refine fun hno => Option.eq_none_iff_forall_ne_some.2 fun r hr => ?_
    obtain ⟨q, -, hq⟩ := sound r hr
    exact hno q hq

end FirstPlace

/-! ### FSYNC -/

/-- Before a byte that is not 0xFF the tail of a sync ends. -/
theorem exists_syncTail_le {l : List Byte} {k : Nat} (hk : k < l.length) (h : l.getD k 0 ≠ syncByte) (p : Nat) :
    ∃ q ≤ k, syncTail l p = some (p + q) := by
  induction l generalizing k p with
  | nil => simp at hk
  | cons b l ih =>
    by_cases hb : b = syncByte
    · cases k with
      | zero => exact absurd hb h
      | succ k =>
        obtain ⟨q, hq, e⟩ := ih (by simpa using hk) (by simpa using h) (p + 1)
        exact ⟨q + 1, by omega, by rw [syncTail, if_pos hb, e, Nat.add_right_comm, Nat.add_assoc]⟩
    · exact ⟨0, Nat.zero_le k, if_neg hb⟩

/-- What the scan finds is a sync end (41_bitstream_scanner.md R141). -/
theorem syncEnd_of_syncScan {l : List Byte} {p q : Nat} (h : syncScan l p = some (p + q)) : SyncEnd l q := by
  induction l generalizing p q with
  | nil => simp [syncScan] at h
  | cons b0 l ih =>
    obtain ⟨q, rfl⟩ : ∃ k, q = k + 1 := ⟨q - 1, by have := syncScan_bounds h; omega⟩
    refine syncEnd_cons.2 ?_
    cases l with
    | nil => simp [syncScan] at h
    | cons b1 r =>
      have hbound := syncScan_bounds h
      rw [← Nat.add_assoc, Nat.add_right_comm] at h
      unfold syncScan at h
      split at h
      next hm =>
        refine .inl ⟨hm.1, by omega, ?_⟩
        simpa [syncTail_eq_some_iff] using h
      next => exact .inr (ih h)

/-- The scan passes no sync end (41_bitstream_scanner.md R141). -/
theorem exists_syncScan_le {l : List Byte} {k : Nat} (h : SyncEnd l k) (p : Nat) :
    ∃ q ≤ k, syncScan l p = some (p + q) := by
  induction l generalizing k p with
  | nil => simpa using h.lt_length
  | cons b0 l ih =>
    obtain ⟨k, rfl⟩ : ∃ m, k = m + 1 := ⟨k - 1, by obtain ⟨_, hi, -⟩ := h; omega⟩
    cases l with
    | nil => simpa using h.lt_length
    | cons b1 r =>
      have later {x : Option Nat} (e : ∃ q ≤ k, x = some (p + 1 + q)) : ∃ q ≤ k + 1, x = some (p + q) := by
        obtain ⟨q, hq, e⟩ := e
        exact ⟨q + 1, by omega, by rw [e, Nat.add_right_comm, Nat.add_assoc]⟩
      unfold syncScan
      split
      next => exact later (exists_syncTail_le (by simpa using h.lt_length) (by simpa using h.getD_ne) (p + 1))
      next hm =>
        refine later (ih ((syncEnd_cons.1 h).resolve_left ?_) (p + 1))
        rintro ⟨hbit, hpos, htail⟩
        obtain ⟨-, -, hrun, -⟩ := syncTail_eq_some_iff.1 htail
        exact hm ⟨hbit, hrun 0 (by omega)⟩

/-- FSYNC answers a sync end of its range (41_bitstream_scanner.md R141). -/
theorem syncEnd_of_fsync {B : List Byte} {pos stop r : Nat} (h : fsync B pos stop = some r) :
    ∃ q, r = pos + q ∧ SyncEnd ((B.take stop).drop pos) q := by
  obtain ⟨q, rfl⟩ := Nat.exists_eq_add_of_le (show pos ≤ r by have := fsync_bounds h; omega)
  exact ⟨q, rfl, syncEnd_of_syncScan h⟩

/-- FSYNC answers no later than at any sync end of its range (41_bitstream_scanner.md R141). -/
theorem exists_fsync_le {B : List Byte} {pos stop k : Nat} (h : SyncEnd ((B.take stop).drop pos) k) :
    ∃ q ≤ k, fsync B pos stop = some (pos + q) := exists_syncScan_le h pos

/-- FSYNC answers the first sync end of its range, and only that (41_bitstream_scanner.md R141). -/
theorem fsync_eq_some_iff {B : List Byte} {pos stop q : Nat} :
    fsync B pos stop = some (pos + q) ↔
      SyncEnd ((B.take stop).drop pos) q ∧ ∀ q' < q, ¬ SyncEnd ((B.take stop).drop pos) q' :=
  eq_some_iff_first (fun _ => syncEnd_of_fsync) (fun _ => exists_fsync_le) (add_right_injective pos)

/-- FSYNC answers nothing exactly where its range holds no sync end (41_bitstream_scanner.md R141). -/
theorem fsync_eq_none_iff {B : List Byte} {pos stop : Nat} :
    fsync B pos stop = none ↔ ∀ q, ¬ SyncEnd ((B.take stop).drop pos) q :=
  eq_none_iff_nowhere (fun _ => syncEnd_of_fsync) (fun _ => exists_fsync_le)

/-! ### FHDR -/

/-- `q` is the end of a sync of `l` and holds the header mark (41_bitstream_scanner.md R144). -/
def MarkAt (l : List Byte) (q : Nat) : Prop := SyncEnd l q ∧ l.getD q 0 = hdrMark

theorem MarkAt.of_drop {l : List Byte} {n q : Nat} (h : MarkAt (l.drop n) q) : MarkAt l (n + q) :=
  ⟨h.1.of_drop, by simpa [List.getD_eq_getElem?_getD] using h.2⟩

theorem MarkAt.drop {l : List Byte} {n q : Nat} (hn : l.getD n 0 ≠ syncByte) (hq : n < q) (h : MarkAt l q) :
    MarkAt (l.drop n) (q - n) :=
  ⟨h.1.drop hn hq, by simpa [List.getD_eq_getElem?_getD, Nat.add_sub_of_le hq.le] using h.2⟩

/-- The mark test of FHDR's loop, on the byte of the range at a sync end. -/
theorem getElem?_eq_hdrMark_iff {B : List Byte} {pos stop q : Nat} (h : SyncEnd ((B.take stop).drop pos) q) :
    B[pos + q]? = some hdrMark ↔ MarkAt ((B.take stop).drop pos) q := by
  have hlen := h.lt_length
  have hlt : pos + q < (B.take stop).length := by rw [List.length_drop] at hlen; omega
  have hB : pos + q < B.length ∧ pos + q < stop := by rw [List.length_take] at hlt; omega
  simp [MarkAt, h, List.getD_eq_getElem?_getD, hB.1, hB.2]

/-- What FHDR answers is the position past a header mark of its range (41_bitstream_scanner.md R144). -/
theorem markAt_of_fhdr {B : List Byte} {pos stop r : Nat} (h : fhdr B pos stop = some r) :
    ∃ q, r = pos + q + 1 ∧ MarkAt ((B.take stop).drop pos) q := by
  induction hn : stop - pos using Nat.strong_induction_on generalizing pos with
  | _ n ih =>
    rw [fhdr_eq] at h
    split at h
    next => cases h
    next d hd =>
      have hb := fsync_bounds hd
      obtain ⟨q, rfl, hq⟩ := syncEnd_of_fsync hd
      split at h
      next hm => exact ⟨q, (Option.some.inj h).symm, (getElem?_eq_hdrMark_iff hq).1 hm⟩
      next =>
        obtain ⟨k, rfl, hk⟩ := ih _ (by omega) h rfl
        exact ⟨q + k, by omega, MarkAt.of_drop (by rwa [List.drop_drop])⟩

/-- FHDR passes no header mark of its range (41_bitstream_scanner.md R144). -/
theorem exists_fhdr_le {B : List Byte} {pos stop k : Nat} (h : MarkAt ((B.take stop).drop pos) k) :
    ∃ q ≤ k, fhdr B pos stop = some (pos + q + 1) := by
  induction k using Nat.strong_induction_on generalizing pos with
  | _ k ih =>
    obtain ⟨d, hdk, hd⟩ := exists_fsync_le h.1
    have hq := syncEnd_of_syncScan hd
    have hb := fsync_bounds hd
    simp only [fhdr_eq B pos stop, hd]
    split
    next => exact ⟨d, hdk, rfl⟩
    next hm =>
      have hlt : d < k := Nat.lt_of_le_of_ne hdk fun e => hm ((getElem?_eq_hdrMark_iff hq).2 (e ▸ h))
      have hrest := h.drop hq.getD_ne hlt
      rw [List.drop_drop] at hrest
      obtain ⟨q, hqk, e⟩ := ih (k - d) (by omega) hrest
      exact ⟨d + q, by omega, by rw [e, Nat.add_assoc pos]⟩

/-- FHDR answers the position past the first header mark of its range, and only that (41_bitstream_scanner.md R144). -/
theorem fhdr_eq_some_iff {B : List Byte} {pos stop q : Nat} :
    fhdr B pos stop = some (pos + q + 1) ↔
      MarkAt ((B.take stop).drop pos) q ∧ ∀ q' < q, ¬ MarkAt ((B.take stop).drop pos) q' :=
  eq_some_iff_first (fun _ => markAt_of_fhdr) (fun _ => exists_fhdr_le)
    ((add_left_injective 1).comp (add_right_injective pos))

/-- FHDR answers nothing exactly where its range holds no header mark (41_bitstream_scanner.md R144). -/
theorem fhdr_eq_none_iff {B : List Byte} {pos stop : Nat} :
    fhdr B pos stop = none ↔ ∀ q, ¬ MarkAt ((B.take stop).drop pos) q :=
  eq_none_iff_nowhere (fun _ => markAt_of_fhdr) (fun _ => exists_fhdr_le)

/-! ### The result convention of the searches -/

/-- The buffer BUFSEL selects (20_memory.md R66). -/
theorem scanned_eq (s : State) : scanned s = (s.mem s.selected, bufCap s.selected) := by
  unfold scanned State.selected
  split <;> rfl

@[simp] theorem State.setFlag_selected (s : State) (f : Flag) (b : Bool) : (s.setFlag f b).selected = s.selected := rfl

/-- The status of a completed command that answers in the flag `f` of mask `bit` (10_state.md R29). -/
theorem withFlag_done_eq_doneWith {f : Flag} {bit : Byte} (h : f ≠ .done) (hbit : 1#8 <<< flagBit f = bit) (v : Byte)
    (b : Bool) : withFlag (withFlag (withFlag v .done false) f b) .done true = doneWith v bit b := by
  subst hbit
  exact withFlag_done_comm v f b h

/-- The range does not lie in the buffer (41_bitstream_scanner.md R141). -/
theorem searchCommand_of_outside {find : List Byte → Option Nat} {s : State}
    (h : ¬ (s.pos ≤ s.endPos ∧ s.endPos.toNat ≤ bufCap s.selected)) : searchCommand find s = .error .range := if_pos h

section Search
variable {find : List Byte → Option Nat} {s : State} (h : s.pos ≤ s.endPos ∧ s.endPos.toNat ≤ bufCap s.selected)
include h

/-- The range a search reads lies in the buffer. -/
theorem search_range_fits : s.pos.toNat + (s.endPos.toNat - s.pos.toNat) ≤ bufCap s.selected :=
  (Nat.add_sub_of_le h.1).trans_le h.2

/-- A byte of the range holds no value (41_bitstream_scanner.md R141). -/
theorem searchCommand_of_unwritten
    (hu : readBytes (s.mem s.selected) s.pos.toNat (s.endPos.toNat - s.pos.toNat) = none) :
    searchCommand find s = .error .uninit := by
  have hread : memRead s s.selected s.pos.toNat (s.endPos.toNat - s.pos.toNat) = .error .uninit :=
    memRead_error_iff.2 (.inr ⟨rfl, .inr (search_range_fits h), hu⟩)
  rw [searchCommand, if_neg (not_not.2 h), hread]
  rfl

variable {l : List Byte} (hl : readBytes (s.mem s.selected) s.pos.toNat (s.endPos.toNat - s.pos.toNat) = some l)
include hl

theorem memRead_search_range : memRead s s.selected s.pos.toNat (s.endPos.toNat - s.pos.toNat) = .ok l :=
  memRead_ok_iff.2 ⟨.inr (search_range_fits h), hl⟩

/-- The search finds something (41_bitstream_scanner.md R140). -/
theorem searchCommand_of_some {q : Nat} (hq : find l = some q) :
    searchCommand find s = .ok { s.setFlag .found true with
      res := s.pos + BitVec.ofNat 16 q, pos := s.pos + BitVec.ofNat 16 q } := by
  have hpos : s.pos + BitVec.ofNat 16 q = BitVec.ofNat 16 (s.pos.toNat + q) := by
    rw [BitVec.ofNat_add, BitVec.ofNat_toNat, BitVec.setWidth_eq]
  rw [searchCommand, if_neg (not_not.2 h), memRead_search_range h hl, hpos]
  simp only [bind, Except.bind, hq]

/-- The search finds nothing (41_bitstream_scanner.md R140). -/
theorem searchCommand_of_none (hq : find l = none) :
    searchCommand find s = .ok { s.setFlag .found false with res := s.endPos, pos := s.endPos } := by
  rw [searchCommand, if_neg (not_not.2 h), memRead_search_range h hl]
  simp only [bind, Except.bind, hq]

end Search

/-- The four answers of a search command on an unfaulted block (41_bitstream_scanner.md R140). -/
theorem runCommand_searchCommand {find : List Byte → Option Nat} {s : State} (hs : s.flag .fault = false) :
    (¬ (s.pos.toNat ≤ s.endPos.toNat ∧ s.endPos.toNat ≤ (scanned s).2) →
      runCommand (searchCommand find) s = .next (faulted 0x02 s))
    ∧ (s.pos.toNat ≤ s.endPos.toNat → s.endPos.toNat ≤ (scanned s).2 →
      (readBytes (scanned s).1 s.pos.toNat (s.endPos.toNat - s.pos.toNat) = none →
        runCommand (searchCommand find) s = .next (faulted 0x04 s))
      ∧ ∀ l, readBytes (scanned s).1 s.pos.toNat (s.endPos.toNat - s.pos.toNat) = some l →
        (∀ q, find l = some q → runCommand (searchCommand find) s = .next { s with
          res := s.pos + BitVec.ofNat 16 q, pos := s.pos + BitVec.ofNat 16 q, status := doneWith s.status 0x02 true })
        ∧ (find l = none → runCommand (searchCommand find) s = .next { s with
          res := s.endPos, pos := s.endPos, status := doneWith s.status 0x02 false })) := by
  have hstatus (b : Bool) := withFlag_done_eq_doneWith (f := .found) (bit := 0x02) (by decide) rfl s.status b
  have hmem (b : Buf) := State.setFlag_mem s .done false b
  rw [scanned_eq]
  refine ⟨fun h => runCommand_of_error (c := .range) hs (searchCommand_of_outside h), fun h1 h2 => ⟨fun hu => ?_,
    fun l hl => ⟨fun q hq => ?_, fun hq => ?_⟩⟩⟩
  · exact runCommand_of_error (c := .uninit) hs
      (searchCommand_of_unwritten (s := s.setFlag .done false) ⟨h1, h2⟩ ((hmem _).symm ▸ hu))
  · have hrule := searchCommand_of_some (s := s.setFlag .done false) ⟨h1, h2⟩ ((hmem _).symm ▸ hl) hq
    rw [← hstatus]
    exact runCommand_of_ok hs hrule
  · have hrule := searchCommand_of_none (s := s.setFlag .done false) ⟨h1, h2⟩ ((hmem _).symm ▸ hl) hq
    rw [← hstatus]
    exact runCommand_of_ok hs hrule

/-- Settles O21: a search command with FSYNC, whose answer `fsync_eq_some_iff` and `fsync_eq_none_iff` say. -/
theorem fsyncFindsTheFirstSyncEnd : Obligations.FsyncFindsTheFirstSyncEnd := by
  intro s hs
  obtain ⟨hout, hin⟩ := runCommand_searchCommand (find := fun l => fsync l 0 l.length) hs
  refine ⟨hout, fun h1 h2 => ?_⟩
  obtain ⟨hunwritten, hwritten⟩ := hin h1 h2
  refine ⟨hunwritten, fun l hl => ?_⟩
  obtain ⟨hsome, hnone⟩ := hwritten l hl
  refine ⟨fun q hq hfirst => hsome q ?_, fun hno => hnone ?_⟩
  · rw [← Nat.zero_add q, fsync_eq_some_iff, List.take_length, List.drop_zero]
    exact ⟨hq, hfirst⟩
  · rwa [fsync_eq_none_iff, List.take_length, List.drop_zero]

/-- Settles O22: a search command with FHDR, whose answer `fhdr_eq_some_iff` and `fhdr_eq_none_iff` say. -/
theorem fhdrFindsTheFirstHeaderMark : Obligations.FhdrFindsTheFirstHeaderMark := by
  intro s hs
  obtain ⟨hout, hin⟩ := runCommand_searchCommand (find := fun l => fhdr l 0 l.length) hs
  refine ⟨hout, fun h1 h2 => ?_⟩
  obtain ⟨hunwritten, hwritten⟩ := hin h1 h2
  refine ⟨hunwritten, fun l hl => ?_⟩
  obtain ⟨hsome, hnone⟩ := hwritten l hl
  refine ⟨fun q hq hmark hfirst => hsome (q + 1) ?_, fun hno => hnone ?_⟩
  · rw [← Nat.zero_add q, fhdr_eq_some_iff, List.take_length, List.drop_zero]
    exact ⟨⟨hq, hmark⟩, fun q' hlt h => hfirst q' hlt h.1 h.2⟩
  · rw [fhdr_eq_none_iff, List.take_length, List.drop_zero]
    exact fun q h => hno q h.1 h.2

/-! ### BADGCR -/

/-- One position of the mask test reads three bits (41_bitstream_scanner.md R146). -/
theorem mask_eq_zero_iff {n : Nat} (w : BitVec n) (hn : 3 ≤ n) (i : Nat) :
    (w >>> i) &&& 0b111#n = 0#n ↔ ∀ j < 3, w.getLsbD (i + j) = false := by
  have mask (j : Nat) (hj : j < n) : (0b111#n).getLsbD j = decide (j < 3) := by
    rw [BitVec.getLsbD_ofNat, show 0b111 = 2 ^ 3 - 1 from rfl, Nat.testBit_two_pow_sub_one]
    simp [hj]
  constructor
  · intro h j hj
    have hbit := congrArg (·.getLsbD j) h
    simpa [mask j (by omega), hj] using hbit
  · refine fun h => BitVec.eq_of_getLsbD_eq fun j hj => ?_
    by_cases h3 : j < 3
    · simp [h j h3]
    · simp [mask j hj, h3]

/-- The window test finds three consecutive zero bits, wherever in the ten they stand (41_bitstream_scanner.md R146). -/
theorem windowBad_iff (prev cur : Byte) :
    windowBad prev cur = true ↔ ∃ i < 8, ∀ j < 3, (prev.extractLsb' 0 2 ++ cur).getLsbD (i + j) = false := by
  simp only [windowBad, List.any_eq_true, List.mem_range, beq_iff_eq]
  exact exists_congr fun i => and_congr_right fun _ => mask_eq_zero_iff (gcrWindow prev cur) (by decide) i

/-- Reading one byte as a list is reading it (20_memory.md R65). -/
theorem readBytes_one {m : Memory} (h : m.Pairwise fun x y => x.1 < y.1) (a : Nat) :
    readBytes m a 1 = (readByte m a).map fun v => [v] := by
  refine Option.ext fun l => ?_
  rw [readBytes_eq_some_iff h]
  constructor
  · rintro ⟨hl, hr⟩
    obtain ⟨v, rfl⟩ := List.length_eq_one_iff.1 hl
    simpa using hr 0 Nat.one_pos
  · intro hr
    obtain ⟨v, hv, rfl⟩ := Option.map_eq_some_iff.1 hr
    refine ⟨rfl, fun i hi => ?_⟩
    obtain rfl : i = 0 := by omega
    exact hv

/-- Reading one byte inside the capacity (20_memory.md R65). -/
theorem memRead_one {s : State} {b : Buf} {a : Nat} (ha : a < bufCap b)
    (h : (s.mem b).Pairwise fun x y => x.1 < y.1) :
    memRead s b a 1 = match readByte (s.mem b) a with
      | some v => .ok [v]
      | none => .error .uninit := by
  cases hr : readByte (s.mem b) a with
  | some v => exact memRead_ok_iff.2 ⟨.inr ha, by rw [readBytes_one h, hr]; rfl⟩
  | none => exact memRead_error_iff.2 (.inr ⟨rfl, .inr ha, by rw [readBytes_one h, hr]; rfl⟩)

/-- The byte before the position lies in the declared length too (41_bitstream_scanner.md R146). -/
theorem prevPos_lt {len pos : Nat} (h : pos < len) : prevPos len pos < len := by
  unfold prevPos
  split <;> omega

theorem ruleBadgcr_of_outside {s : State}
    (h : ¬ (1 ≤ s.len.toNat ∧ s.len.toNat ≤ bufCap s.selected ∧ s.pos < s.len)) : ruleBadgcr s = .error .range :=
  if_pos h

section Badgcr
variable {s : State} (h : 1 ≤ s.len.toNat ∧ s.len.toNat ≤ bufCap s.selected ∧ s.pos < s.len)
  (hm : (s.mem s.selected).Pairwise fun x y => x.1 < y.1)
include h hm

theorem ruleBadgcr_of_unwritten
    (hu : readByte (s.mem s.selected) (prevPos s.len.toNat s.pos.toNat) = none
      ∨ readByte (s.mem s.selected) s.pos.toNat = none) : ruleBadgcr s = .error .uninit := by
  have ⟨_, hcap, hpos⟩ := h
  rw [ruleBadgcr, if_neg (not_not.2 h), memRead_one ((prevPos_lt hpos).trans_le hcap) hm,
    memRead_one (Nat.lt_of_lt_of_le hpos hcap) hm]
  obtain hu | hu := hu
  · rw [hu]; rfl
  · rw [hu]; cases readByte (s.mem s.selected) (prevPos s.len.toNat s.pos.toNat) <;> rfl

theorem ruleBadgcr_of_written {prev cur : Byte}
    (hprev : readByte (s.mem s.selected) (prevPos s.len.toNat s.pos.toNat) = some prev)
    (hcur : readByte (s.mem s.selected) s.pos.toNat = some cur) :
    ruleBadgcr s = .ok (s.setFlag .bad (windowBad prev cur)) := by
  have ⟨_, hcap, hpos⟩ := h
  rw [ruleBadgcr, if_neg (not_not.2 h), memRead_one ((prevPos_lt hpos).trans_le hcap) hm,
    memRead_one (Nat.lt_of_lt_of_le hpos hcap) hm, hprev, hcur]
  rfl

end Badgcr

/-- The address before POS, as the register POS says it. -/
theorem prevPos_toNat (len : Nat) (pos : Word) : prevPos len pos.toNat = if pos = 0 then len - 1 else pos.toNat - 1 :=
  if_congr (BitVec.toNat_eq (x := pos) (y := 0)).symm rfl rfl

/-- Settles O23: the faults by the checks of the rule in their order, the answer by `windowBad_iff`. -/
theorem badgcrTestsTheTenBitWindow : Obligations.BadgcrTestsTheTenBitWindow := by
  intro s hs
  rw [scanned_eq]
  refine ⟨fun h => runCommand_of_error (c := .range) hs (ruleBadgcr_of_outside h), ?_⟩
  intro before hbefore h1 h2 h3
  rw [← prevPos_toNat] at hbefore
  subst hbefore
  refine ⟨fun hu ⟨hm, _⟩ => ?_, fun prev cur hprev hcur ⟨hm, _⟩ => ⟨windowBad prev cur, ?_, windowBad_iff prev cur⟩⟩
  · exact runCommand_of_error (c := .uninit) hs
      (ruleBadgcr_of_unwritten (s := s.setFlag .done false) ⟨h1, h2, h3⟩ (by simpa using hm) (by simpa using hu))
  · have hrule := ruleBadgcr_of_written (s := s.setFlag .done false) ⟨h1, h2, h3⟩ (by simpa using hm)
      (by simpa using hprev) (by simpa using hcur)
    rw [← withFlag_done_eq_doneWith (f := .bad) (bit := 0x04) (by decide) rfl]
    exact runCommand_of_ok hs hrule

/-! ### SYNCFLG -/

/-- The near-sync bytes are 0x7F and 0xFF (41_bitstream_scanner.md R148). -/
theorem nearSync_iff (b : Byte) : nearSync b = true ↔ b = 0x7F ∨ b = 0xFF := by
  revert b; decide +kernel

theorem countNearSync_eq (l : List Byte) :
    countNearSync l = (l.filter fun b => b = 0x7F ∨ b = 0xFF).length := by
  rw [countNearSync, List.countP_eq_length_filter]
  congr 2
  funext b
  rw [Bool.eq_iff_iff, nearSync_iff, decide_eq_true_iff]

theorem ruleSyncflg_of_unwritten {c : Config} {s : State} (h : s.len.toNat ≤ bufCap s.selected)
    (hu : readBytes (s.mem s.selected) 0 s.len.toNat = none) : ruleSyncflg c s = .error .uninit := by
  have hread : memRead s s.selected 0 s.len.toNat = .error .uninit :=
    memRead_error_iff.2 (.inr ⟨rfl, .inr (by rwa [Nat.zero_add]), hu⟩)
  rw [ruleSyncflg, if_neg (Nat.not_lt.2 h), hread]
  rfl

theorem ruleSyncflg_of_written {c : Config} {s : State} {l : List Byte} (h : s.len.toNat ≤ bufCap s.selected)
    (hl : readBytes (s.mem s.selected) 0 s.len.toNat = some l) :
    ruleSyncflg c s = .ok { s with zflags := syncFlags c s.zflags (countNearSync l) s.len.toNat } := by
  have hread : memRead s s.selected 0 s.len.toNat = .ok l :=
    memRead_ok_iff.2 ⟨.inr (by rwa [Nat.zero_add]), hl⟩
  rw [ruleSyncflg, if_neg (Nat.not_lt.2 h), hread]
  rfl

/-- Settles O24: the faults by the checks of the rule in their order, the flags by `countNearSync_eq`. -/
theorem syncflgClassifiesTheTrack : Obligations.SyncflgClassifiesTheTrack := by
  intro s hs
  rw [scanned_eq]
  refine ⟨fun h => runCommand_of_error (c := .range) hs (if_pos h), fun h hu => ?_, ?_⟩
  · exact runCommand_of_error (c := .uninit) hs
      (ruleSyncflg_of_unwritten (s := s.setFlag .done false) h (by simpa using hu))
  · rintro l n h hl rfl
    have hrule := ruleSyncflg_of_written (c := params) (s := s.setFlag .done false) h (by simpa using hl)
    rw [← withFlag_done_done, ← countNearSync_eq]
    exact runCommand_of_ok hs hrule

end Sys2Proof.Machine
end

section
/-! The Cycle Detector (42_cycle_detector.md): MARKS answers the first accepted pair of marks, the window test counts
positions, and what each check of CYCDET answers. -/

namespace Sys2Proof.Machine

/-! ### Walks of marks -/

/-- A mark finder moves forward and stays inside the first `stop` positions (42_cycle_detector.md R164). -/
def Advances (F : MarkFinder) (stop : Nat) : Prop := ∀ p q, F p = some q → p < q ∧ q ≤ stop

theorem advances_fsync (B : List Byte) (stop : Nat) : Advances (fun p => fsync B p stop) stop := fun p q h => by
  have := fsync_bounds h
  omega

theorem advances_fhdr (B : List Byte) (stop : Nat) : Advances (fun p => fhdr B p stop) stop := fun p q h => by
  have := fhdr_bounds h
  omega

/-- `q` is a mark of the walk of `F` from the cursor `p` (42_cycle_detector.md R164). -/
def Marked (F : MarkFinder) (p q : Nat) : Prop := ∃ n, markWalk F p (n + 1) = some q

/-- The walk from `p` is the walk from the first mark after `p`. -/
theorem markWalk_succ (F : MarkFinder) (p n : Nat) : markWalk F p (n + 1) = (F p).bind fun m => markWalk F m n := by
  induction n with
  | zero => cases h : F p <;> simp [markWalk, h]
  | succ n ih => rw [markWalk, ih, Option.bind_assoc]; rfl

theorem marked_iff {F : MarkFinder} {p q : Nat} : Marked F p q ↔ ∃ m, F p = some m ∧ (q = m ∨ Marked F m q) := by
  simp only [Marked, markWalk_succ F p, Option.bind_eq_some_iff]
  constructor
  · rintro ⟨_ | n, m, hm, hq⟩
    · exact ⟨m, hm, .inl (Option.some.inj hq).symm⟩
    · exact ⟨m, hm, .inr ⟨n, hq⟩⟩
  · rintro ⟨m, hm, rfl | ⟨n, hq⟩⟩
    · exact ⟨0, q, hm, rfl⟩
    · exact ⟨n + 1, m, hm, hq⟩

/-- Marks lie past the cursor and inside the range. -/
theorem Advances.marked {F : MarkFinder} {stop p q : Nat} (hF : Advances F stop) (h : Marked F p q) : p < q ∧ q ≤ stop := by
  obtain ⟨n, h⟩ := h
  induction n generalizing p with
  | zero => exact hF p q h
  | succ n ih =>
    obtain ⟨m, hm, hq⟩ := Option.bind_eq_some_iff.1 ((markWalk_succ F p (n + 1)).symm.trans h)
    have := hF p m hm
    have := ih hq
    omega

theorem cycleStop_le (k : CycleInput) : cycleStop k ≤ k.tb.length := Nat.sub_le _ _

/-! ### VERIFY -/

/-- The windows at every pair of marks from `p1` and `p2` on agree, as long as both walks go on (42_cycle_detector.md
R164). -/
def WalksAgree (k : CycleInput) (F : MarkFinder) (p1 p2 : Nat) : Prop :=
  ∀ n q1 q2, markWalk F p1 n = some q1 → markWalk F p2 n = some q2 → cycleWin k q1 = cycleWin k q2

theorem walksAgree_iff {k : CycleInput} {F : MarkFinder} {p1 p2 : Nat} :
    WalksAgree k F p1 p2 ↔
      cycleWin k p1 = cycleWin k p2 ∧ ∀ n1 n2, F p1 = some n1 → F p2 = some n2 → WalksAgree k F n1 n2 := by
  constructor
  · refine fun h => ⟨h 0 p1 p2 rfl rfl, fun n1 n2 h1 h2 n q1 q2 hq1 hq2 => h (n + 1) q1 q2 ?_ ?_⟩
    · rwa [markWalk_succ, h1]
    · rwa [markWalk_succ, h2]
  · rintro ⟨hw, hnext⟩ (_ | n) q1 q2 hq1 hq2
    · obtain rfl := Option.some.inj hq1
      obtain rfl := Option.some.inj hq2
      exact hw
    · rw [markWalk_succ] at hq1 hq2
      obtain ⟨n1, h1, hq1⟩ := Option.bind_eq_some_iff.1 hq1
      obtain ⟨n2, h2, hq2⟩ := Option.bind_eq_some_iff.1 hq2
      exact hnext n1 n2 h1 h2 n q1 q2 hq1 hq2

/-- A walk from the cursor `cc` meets `c`, an accepted repeat of the start `s` (42_cycle_detector.md R164). -/
def RepeatFrom (k : CycleInput) (F : MarkFinder) (s cc c : Nat) : Prop :=
  Marked F cc c ∧ c ≤ s + cycleHi k ∧ WalksAgree k F s c ∧ validWin (cycleWin k c) = true

/-- The cursor from which the repeats of `s` are looked for (42_cycle_detector.md R164). -/
def repeatCursor (k : CycleInput) (s : Nat) : Nat := s + (max (cycleLo k) 0).toNat

theorem repeatCursor_eq (k : CycleInput) (s : Nat) : repeatCursor k s = s + (k.capMin - k.allow) := by
  simp only [repeatCursor, cycleLo]
  omega

/-- An accepted pair is a start with one of its repeats (42_cycle_detector.md R164). -/
theorem markPair_iff {k : CycleInput} {F : MarkFinder} {s c : Nat} :
    MarkPair k F s c ↔ Marked F 0 s ∧ RepeatFrom k F s (repeatCursor k s) c := by
  rw [repeatCursor_eq]
  rfl

section Marks
variable {k : CycleInput} {F : MarkFinder} (hF : Advances F (cycleStop k))
include hF

/-- VERIFY compares every pair of marks: the walk ends before its turns do. -/
theorem verifyMarks_iff {fuel p1 p2 : Nat} (hp : p1 ≤ k.tb.length) (hfuel : k.tb.length < fuel + p1) :
    verifyMarks k F fuel p1 p2 = true ↔ WalksAgree k F p1 p2 := by
  induction fuel generalizing p1 p2 with
  | zero => omega
  | succ fuel ih =>
    rw [walksAgree_iff, verifyMarks]
    by_cases hw : cycleWin k p1 = cycleWin k p2
    · cases h1 : F p1 with
      | none => simp [hw]
      | some n1 =>
        have hn1 := hF p1 n1 h1
        have hstop := cycleStop_le k
        cases F p2 with
        | none => simp [hw]
        | some n2 => simp [hw, ih (p1 := n1) (p2 := n2) (by omega) (by omega)]
    · simp [hw]

/-- The acceptance test of the repeat walk. -/
theorem accepts_iff {s c : Nat} (hs : 0 < s) (hL : s ≤ k.tb.length) :
    (verifyMarks k F k.tb.length s c && validWin (cycleWin k c)) = true ↔
      WalksAgree k F s c ∧ validWin (cycleWin k c) = true := by
  rw [Bool.and_eq_true, verifyMarks_iff hF hL (by omega)]

/-- One turn of the repeat walk: beyond `stop` there is no mark, so the loop's own test of the cursor decides nothing. -/
theorem repeatWalk_succ (s fuel cc : Nat) :
    repeatWalk k F s (fuel + 1) cc =
      (F cc).bind fun c =>
        if cycleHi k < c - s then none
        else if verifyMarks k F k.tb.length s c && validWin (cycleWin k c) then some c
        else repeatWalk k F s fuel c := by
  rw [repeatWalk]
  cases hm : F cc with
  | none => simp
  | some c =>
    have := hF cc c hm
    rw [if_pos (by omega)]
    rfl

variable {s : Nat} (hs : 0 < s) (hL : s ≤ k.tb.length)
include hs hL

/-- The repeat walk answers an accepted repeat. -/
theorem repeatFrom_of_repeatWalk {fuel cc c : Nat} (h : repeatWalk k F s fuel cc = some c) : RepeatFrom k F s cc c := by
  induction fuel generalizing cc with
  | zero => simp [repeatWalk] at h
  | succ fuel ih =>
    rw [repeatWalk_succ hF] at h
    obtain ⟨m, hm, h⟩ := Option.bind_eq_some_iff.1 h
    split_ifs at h with hhi hacc
    · obtain rfl := Option.some.inj h
      exact ⟨marked_iff.2 ⟨m, hm, .inl rfl⟩, by omega, (accepts_iff hF hs hL).1 hacc⟩
    · obtain ⟨hc, hrest⟩ := ih h
      exact ⟨marked_iff.2 ⟨m, hm, .inr hc⟩, hrest⟩

/-- The repeat walk passes no accepted repeat. -/
theorem exists_repeatWalk_le {fuel cc c : Nat} (hfuel : k.tb.length ≤ fuel + cc) (h : RepeatFrom k F s cc c) :
    ∃ q ≤ c, repeatWalk k F s fuel cc = some q := by
  have hstop := cycleStop_le k
  obtain ⟨hc, hhi, hacc⟩ := h
  induction fuel generalizing cc with
  | zero => have := hF.marked hc; omega
  | succ fuel ih =>
    obtain ⟨m, hm, hmc⟩ := marked_iff.1 hc
    have hcc := hF cc m hm
    have hle : m ≤ c := hmc.elim (fun e => e ▸ le_rfl) fun hc => (hF.marked hc).1.le
    simp only [repeatWalk_succ hF, hm, Option.bind_some, if_neg (show ¬ cycleHi k < m - s by omega)]
    split
    next => exact ⟨m, hle, rfl⟩
    next hno =>
      obtain rfl | hc := hmc
      · exact absurd ((accepts_iff hF hs hL).2 hacc) hno
      · exact ih (by omega) hc

/-- The repeat walk of a start answers its first accepted repeat, and only that (42_cycle_detector.md R164). -/
theorem repeatWalk_eq_some_iff {c : Nat} :
    repeatWalk k F s k.tb.length (repeatCursor k s) = some c ↔
      RepeatFrom k F s (repeatCursor k s) c ∧ ∀ c' < c, ¬ RepeatFrom k F s (repeatCursor k s) c' :=
  eq_some_iff_first (f := id) (fun r h => ⟨r, rfl, repeatFrom_of_repeatWalk hF hs hL h⟩)
    (fun _ => exists_repeatWalk_le hF hs hL (Nat.le_add_right _ _)) Function.injective_id

end Marks

/-! ### The starts -/

/-- MARKS accepts the pair at the smallest start, and there at the smallest distance (42_cycle_detector.md R164). -/
def FirstMarkPair (k : CycleInput) (F : MarkFinder) (s l : Nat) : Prop :=
  MarkPair k F s (s + l) ∧ (∀ s' < s, ∀ c, ¬ MarkPair k F s' c) ∧ ∀ l' < l, ¬ MarkPair k F s (s + l')

/-- There is only one first pair. -/
theorem FirstMarkPair.unique {k : CycleInput} {F : MarkFinder} {s l s' l' : Nat} (h : FirstMarkPair k F s l)
    (h' : FirstMarkPair k F s' l') : s = s' ∧ l = l' := by
  obtain ⟨hp, hs, hl⟩ := h
  obtain ⟨hp', hs', hl'⟩ := h'
  obtain rfl : s = s' := le_antisymm (not_lt.1 fun hlt => hs s' hlt _ hp') (not_lt.1 fun hlt => hs' s hlt _ hp)
  exact ⟨rfl, le_antisymm (not_lt.1 fun hlt => hl l' hlt hp') (not_lt.1 fun hlt => hl' l hlt hp)⟩

section Starts
variable {k : CycleInput} {F : MarkFinder}

/-- One turn of the start walk. -/
theorem startWalk_succ (fuel sc : Nat) :
    startWalk k F (fuel + 1) sc =
      (F sc).bind fun s => ((repeatWalk k F s k.tb.length (repeatCursor k s)).map fun c => (s, c - s)).or
        (startWalk k F fuel s) := by
  rw [startWalk]
  cases F sc with
  | none => rfl
  | some s =>
    simp only [repeatCursor, Option.bind_some]
    cases repeatWalk k F s k.tb.length (s + (max (cycleLo k) 0).toNat) <;> rfl

/-- What the start walk answers is a start and the distance to the repeat its own walk answers. -/
theorem marked_of_startWalk {fuel sc s l : Nat} (h : startWalk k F fuel sc = some (s, l)) :
    Marked F sc s ∧ ∃ c, repeatWalk k F s k.tb.length (repeatCursor k s) = some c ∧ l = c - s := by
  induction fuel generalizing sc with
  | zero => simp [startWalk] at h
  | succ fuel ih =>
    rw [startWalk_succ] at h
    obtain ⟨m, hm, h⟩ := Option.bind_eq_some_iff.1 h
    obtain h | ⟨-, h⟩ := Option.or_eq_some_iff.1 h
    · obtain ⟨c, hc, e⟩ := Option.map_eq_some_iff.1 h
      obtain ⟨rfl, rfl⟩ := Prod.mk.inj e
      exact ⟨marked_iff.2 ⟨m, hm, .inl rfl⟩, c, hc, rfl⟩
    · obtain ⟨hs, hc⟩ := ih h
      exact ⟨marked_iff.2 ⟨m, hm, .inr hs⟩, hc⟩

variable (hF : Advances F (cycleStop k))
include hF

/-- The start walk passes no start that has a repeat. -/
theorem exists_startWalk_le {fuel sc s c : Nat} (hfuel : k.tb.length ≤ fuel + sc) (hs : Marked F sc s)
    (hc : repeatWalk k F s k.tb.length (repeatCursor k s) = some c) :
    ∃ s' ≤ s, ∃ l, startWalk k F fuel sc = some (s', l) := by
  have hstop := cycleStop_le k
  induction fuel generalizing sc with
  | zero => have := hF.marked hs; omega
  | succ fuel ih =>
    obtain ⟨m, hm, hms⟩ := marked_iff.1 hs
    have hsc := hF sc m hm
    have hle : m ≤ s := hms.elim (fun e => e ▸ le_rfl) fun hs => (hF.marked hs).1.le
    rw [startWalk_succ, hm, Option.bind_some]
    cases hr : repeatWalk k F m k.tb.length (repeatCursor k m) with
    | some c' => exact ⟨m, hle, c' - m, rfl⟩
    | none =>
      obtain rfl | hs := hms
      · cases hc.symm.trans hr
      · exact ih (by omega) hs

/-- A mark of the walk from 0 is a place where a repeat walk has turns enough. -/
theorem Marked.pos_and_le {s : Nat} (h : Marked F 0 s) : 0 < s ∧ s ≤ k.tb.length := by
  have := hF.marked h
  have := cycleStop_le k
  omega

/-- A pair accepted by MARKS is met by the start walk, at its start or before. -/
theorem exists_marks_le {s c : Nat} (h : MarkPair k F s c) : ∃ s' ≤ s, ∃ l, marks k F = some (s', l) := by
  obtain ⟨hs, hc⟩ := markPair_iff.1 h
  obtain ⟨hpos, hL⟩ := hs.pos_and_le hF
  obtain ⟨q, -, hq⟩ := exists_repeatWalk_le hF hpos hL (Nat.le_add_right _ _) hc
  exact exists_startWalk_le hF (Nat.le_add_right _ _) hs hq

/-- A repeat lies past its start, at least the least distance further. -/
theorem MarkPair.lt {s c : Nat} (h : MarkPair k F s c) : s + (k.capMin - k.allow) < c := by
  obtain ⟨-, hc, -⟩ := markPair_iff.1 h
  exact repeatCursor_eq k s ▸ (hF.marked hc).1

/-- What MARKS answers is the first accepted pair. -/
theorem firstMarkPair_of_marks {s l : Nat} (h : marks k F = some (s, l)) : FirstMarkPair k F s l := by
  obtain ⟨hs, c, hc, rfl⟩ := marked_of_startWalk h
  obtain ⟨hpos, hL⟩ := hs.pos_and_le hF
  obtain ⟨hrep, hfirst⟩ := (repeatWalk_eq_some_iff hF hpos hL).1 hc
  have hpair : MarkPair k F s c := markPair_iff.2 ⟨hs, hrep⟩
  have hlt := hpair.lt hF
  refine ⟨by rwa [Nat.add_sub_of_le (by omega)], fun s' hs' c' hp => ?_, fun l' hl' hp => ?_⟩
  · obtain ⟨s'', hle, l, e⟩ := exists_marks_le hF hp
    obtain ⟨rfl, -⟩ := Prod.mk.inj (Option.some.inj (h.symm.trans e))
    omega
  · exact hfirst (s + l') (by omega) (markPair_iff.1 hp).2

theorem marks_eq_some_iff {s l : Nat} : marks k F = some (s, l) ↔ FirstMarkPair k F s l := by
  refine ⟨firstMarkPair_of_marks hF, fun h => ?_⟩
  obtain ⟨s', -, l', e⟩ := exists_marks_le hF h.1
  obtain ⟨rfl, rfl⟩ := h.unique (firstMarkPair_of_marks hF e)
  exact e

theorem marks_eq_none_iff : marks k F = none ↔ ∀ s c, ¬ MarkPair k F s c := by
  constructor
  · intro h s c hp
    obtain ⟨_, -, _, e⟩ := exists_marks_le hF hp
    cases h.symm.trans e
  · refine fun hno => Option.eq_none_iff_forall_ne_some.2 fun r hr => ?_
    exact hno _ _ (firstMarkPair_of_marks hF hr).1

end Starts

/-- Settles O28: MARKS for every finder that moves forward inside the capture, as FHDR and FSYNC do. -/
theorem marksFindsTheFirstVerifiedRepeat : Obligations.MarksFindsTheFirstVerifiedRepeat := by
  intro k F hfinder
  have hF : Advances F (cycleStop k) := by
    obtain rfl | rfl := hfinder
    · exact advances_fhdr k.tb _
    · exact advances_fsync k.tb _
  refine ⟨fun s l => marks_eq_some_iff hF, marks_eq_none_iff hF, fun s l h => ?_⟩
  obtain ⟨hpair, -⟩ := firstMarkPair_of_marks hF h
  have hlt := hpair.lt hF
  obtain ⟨-, -, hhi, hagree, hvalid⟩ := hpair
  exact ⟨by omega, hagree 0 s (s + l) rfl rfl, hvalid, by omega, by omega⟩

/-! ### VALIDWIN -/

/-- The places of a range are 0 and the places after each one. -/
theorem length_filter_range_succ (n : Nat) (p : Nat → Bool) :
    ((List.range (n + 1)).filter p).length =
      (if p 0 then 1 else 0) + ((List.range n).filter fun i => p (i + 1)).length := by
  rw [List.range_succ_eq_map, List.filter_cons, List.filter_map, Nat.add_comm]
  split <;> simp [Function.comp_def]

/-- `repeatCount` counts the positions where three equal bytes begin (42_cycle_detector.md R168). -/
theorem repeatCount_eq (w : List Byte) :
    repeatCount w =
      ((List.range (w.length - 2)).filter fun i => w[i]? = w[i + 1]? ∧ w[i + 1]? = w[i + 2]?).length := by
  induction w using repeatCount.induct with
  | case1 a b c r ih =>
    rw [repeatCount, ih, show (a :: b :: c :: r).length - 2 = r.length + 1 from rfl, length_filter_range_succ]
    simp
  | case2 l h =>
    match l, h with
    | [], _ | [_], _ | [_, _], _ => rfl
    | a :: b :: c :: r, h => exact absurd rfl (h a b c r)

/-- `alternateCount` counts the positions where a pattern a b a b with a ≠ b begins (42_cycle_detector.md R168). -/
theorem alternateCount_eq (w : List Byte) :
    alternateCount w =
      ((List.range (w.length - 3)).filter fun i =>
        w[i]? = w[i + 2]? ∧ w[i + 1]? = w[i + 3]? ∧ w[i]? ≠ w[i + 1]?).length := by
  induction w using alternateCount.induct with
  | case1 a b c d r ih =>
    rw [alternateCount, ih, show (a :: b :: c :: d :: r).length - 3 = r.length + 1 from rfl, length_filter_range_succ]
    simp
  | case2 l h =>
    match l, h with
    | [], _ | [_], _ | [_, _], _ | [_, _, _], _ => rfl
    | a :: b :: c :: d :: r, h => exact absurd rfl (h a b c d r)

/-- No two adjacent bytes are a pair of `p` exactly where no position begins one. -/
theorem any_zip_tail_eq_false_iff {w : List Byte} {p : Byte × Byte → Bool} :
    (w.zip w.tail).any p = false ↔ ∀ i (h : i + 1 < w.length), p (w[i], w[i + 1]) = false := by
  simp only [List.any_eq_false, List.forall_mem_iff_forall_getElem, List.getElem_zip, List.getElem_tail,
    List.length_zip, List.length_tail, Bool.not_eq_true]
  exact forall_congr' fun i => ⟨fun H h => H (by omega), fun H h => H (by omega)⟩

/-- A pair of adjacent bytes is no gap filler (42_cycle_detector.md R168). -/
theorem gapPair_eq_false_iff (a b : Byte) : gapPair (a, b) = false ↔ (a, b) ≠ (0x55, 0xAA) ∧ (a, b) ≠ (0xAA, 0x55) := by
  rw [gapPair, Bool.or_eq_false_iff, beq_eq_false_iff_ne, beq_eq_false_iff_ne]

/-- Settles O30: the three clauses of VALIDWIN by position, the counts by `repeatCount_eq` and `alternateCount_eq`. -/
theorem validWindowCountsAsStated : Obligations.ValidWindowCountsAsStated := by
  intro w
  rw [← repeatCount_eq, ← alternateCount_eq, validWin, Bool.and_eq_true, Bool.and_eq_true, Bool.not_eq_true',
    Bool.not_eq_true', decide_eq_true_iff, and_assoc, any_zip_tail_eq_false_iff]
  refine and_congr (by simp [syncByte]) (and_congr_left fun _ => forall₂_congr fun i h => ?_)
  rw [gapPair_eq_false_iff, List.getElem?_eq_getElem h, List.getElem?_eq_getElem (by omega)]
  simp

/-! ### CHECK -/

/-- The state with the registers a completed CYCDET writes (42_cycle_detector.md R161). -/
def State.withCycle (s : State) (r : (Nat × Nat) × BitVec 2) : State :=
  { s with cycs := BitVec.ofNat 16 r.1.1, cycl := BitVec.ofNat 16 r.1.2, strat := r.2 }

section Check
variable {s : State} {mn mx a : Word}

/-- A parameter of the zone holds no value (42_cycle_detector.md R162). -/
theorem ruleCycdet_of_unset (h : zoneGet s.capmin s.zone = none ∨ zoneGet s.capmax s.zone = none ∨ s.allow = none) :
    ruleCycdet s = .error .uninit := by
  unfold ruleCycdet
  split
  next hmn hmx ha => simp [hmn, hmx, ha] at h
  next => rfl

variable (hmn : zoneGet s.capmin s.zone = some mn) (hmx : zoneGet s.capmax s.zone = some mx) (ha : s.allow = some a)
include hmn hmx ha

/-- The capture would reach past TB (42_cycle_detector.md R162). -/
theorem ruleCycdet_of_outside (h : tbCap < s.len.toNat) : ruleCycdet s = .error .range := by
  simp only [ruleCycdet, hmn, hmx, ha, if_pos h]

variable (hlen : s.len.toNat ≤ tbCap)
include hlen

/-- The least length is above the greatest, or the window has no bytes (42_cycle_detector.md R162). -/
theorem ruleCycdet_of_badArg (h : mx < mn ∨ s.gaplen = 0) : ruleCycdet s = .error .badArg := by
  simp only [ruleCycdet, hmn, hmx, ha, if_neg (Nat.not_lt.2 hlen)]
  split
  next => rfl
  next hle => rw [if_pos (h.resolve_left hle)]

variable (hle : ¬ mx < mn) (hgap : s.gaplen ≠ 0)
include hle hgap

/-- With the parameters right, the capture is read (42_cycle_detector.md R162). -/
theorem ruleCycdet_eq_bind :
    ruleCycdet s = (memRead s .tb 0 s.len.toNat >>= fun l =>
      .ok (s.withCycle (detectCycle ⟨l, s.gaplen.toNat, mn.toNat, mx.toNat, a.toNat⟩))) := by
  simp only [ruleCycdet, State.withCycle, hmn, hmx, ha, if_neg (Nat.not_lt.2 hlen), if_neg hle, if_neg hgap]

/-- A byte of the capture holds no value (42_cycle_detector.md R162). -/
theorem ruleCycdet_of_unwritten (h : readBytes s.tb 0 s.len.toNat = none) : ruleCycdet s = .error .uninit := by
  rw [ruleCycdet_eq_bind hmn hmx ha hlen hle hgap]
  exact bind_error_iff.2 (.inl (memRead_error_iff.2 (.inr ⟨rfl, .inr (by rwa [Nat.zero_add]), h⟩)))

/-- With every check passed the detector answers on the capture (42_cycle_detector.md R161). -/
theorem ruleCycdet_of_written {l : List Byte} (h : readBytes s.tb 0 s.len.toNat = some l) :
    ruleCycdet s = .ok (s.withCycle (detectCycle ⟨l, s.gaplen.toNat, mn.toNat, mx.toNat, a.toNat⟩)) := by
  rw [ruleCycdet_eq_bind hmn hmx ha hlen hle hgap]
  exact bind_ok_iff.2 ⟨l, memRead_ok_iff.2 ⟨.inr (by rwa [Nat.zero_add]), h⟩, rfl⟩

end Check

/-- The cycle of an empty capture: no loop has a turn, so the whole capture is the fallback (42_cycle_detector.md R169). -/
theorem detectCycle_of_empty (gap capMin capMax allow : Nat) : detectCycle ⟨[], gap, capMin, capMax, allow⟩ = ((0, 0), 0) :=
  rfl

/-- Settles O25: the checks of the rule in their order, and the fallback of an empty capture. -/
theorem cycdetChecksInOrder : Obligations.CycdetChecksInOrder := by
  rintro s z hs rfl
  have hrun : exec .cycdet s = runCommand ruleCycdet s := exec_eq_runCommand (by decide) s
  have fault {c : FaultCode} (h : ruleCycdet (s.setFlag .done false) = .error c) :
      exec .cycdet s = .next (faulted (faultNumber c) s) := hrun.trans (runCommand_of_error hs h)
  refine ⟨fun h => fault (ruleCycdet_of_unset h), fun mn mx a hmn hmx ha =>
    ⟨fun h => fault (ruleCycdet_of_outside hmn hmx ha h), fun hlen h => fault (ruleCycdet_of_badArg hmn hmx ha hlen h),
      fun hlen hle hgap h => fault (ruleCycdet_of_unwritten hmn hmx ha hlen (Nat.not_lt.2 hle) hgap h),
      fun h0 hle hgap => ?_⟩⟩
  have hzero : s.len.toNat = 0 := by simp [h0]
  have hread : readBytes s.tb 0 s.len.toNat = some [] := by rw [hzero, readBytes]
  have hlen : s.len.toNat ≤ tbCap := hzero ▸ Nat.zero_le _
  have hrule := ruleCycdet_of_written (s := s.setFlag .done false) hmn hmx ha hlen (Nat.not_lt.2 hle) hgap hread
  rw [detectCycle_of_empty] at hrule
  rw [← withFlag_done_done]
  exact hrun.trans (runCommand_of_ok hs hrule)

end Sys2Proof.Machine
end

section
/-! The Bit Aligner (43_bit_aligner.md): the model's sync runs are the maximal runs of the bit string, the walk of ALIGNBS
inserts zeros in front of them, and no other sync run appears in its output. -/

namespace Sys2Proof.Machine

/-! ### Maximal runs and their places -/

/-- `x[a .. b−1]` is a maximal run of the element `v`. -/
structure MaximalRun {α : Type} (x : List α) (v : α) (a b : Nat) : Prop where
  lt : a < b
  all : ∀ k, a ≤ k → k < b → x[k]? = some v
  before : a = 0 ∨ x[a - 1]? ≠ some v
  after : x[b]? ≠ some v

section Runs
variable {α : Type}

/-- A maximal run that starts inside another is that run: maximal runs are disjoint. -/
theorem MaximalRun.eq_of_overlap {x : List α} {v v' : α} {a b a' b' : Nat} (h : MaximalRun x v a b)
    (h' : MaximalRun x v' a' b') (hle : a ≤ a') (hlt : a' < b) : v = v' ∧ a = a' ∧ b = b' := by
  have hv : v = v' := Option.some.inj ((h.all a' hle hlt).symm.trans (h'.all a' (le_refl _) h'.lt))
  subst hv
  have ha : a = a' := by
    by_contra hne
    rcases h'.before with h0 | hb
    · omega
    · exact hb (h.all (a' - 1) (by omega) (by omega))
  subst ha
  refine ⟨rfl, rfl, ?_⟩
  rcases lt_trichotomy b b' with hb | hb | hb
  · exact absurd (h'.all b (by omega) hb) h.after
  · exact hb
  · exact absurd (h.all b' (hle.trans h'.lt.le) hb) h'.after

theorem getElem?_zero_expandRuns {rs : List (α × Nat)} (hpos : ∀ r ∈ rs, 0 < r.2) :
    (expandRuns rs)[0]? = rs.head?.map Prod.fst := by
  cases rs with
  | nil => rfl
  | cons r rs =>
    have hk : 0 < r.2 := hpos r List.mem_cons_self
    simp [expandRuns, hk]

/-- The first of a list of runs is a maximal run of what stands before, itself and the others, where its neighbours differ
from it. -/
theorem maximalRun_head {pre : List α} {c : α} {k : Nat} {rs : List (α × Nat)} (hk : 0 < k)
    (hbefore : pre.getLast? ≠ some c) (hafter : (expandRuns rs)[0]? ≠ some c) :
    MaximalRun (pre ++ expandRuns ((c, k) :: rs)) c pre.length (pre.length + k) where
  lt := by omega
  all j hle hlt := by
    have hj : j - pre.length < k := by omega
    rw [List.getElem?_append_right hle]
    simp [expandRuns, List.getElem?_append, hj]
  before := by
    rcases pre.eq_nil_or_concat with rfl | ⟨init, y, rfl⟩
    · exact .inl rfl
    · exact .inr (by simpa using hbefore)
  after := by
    rw [List.getElem?_append_right (by omega)]
    simpa [expandRuns, List.getElem?_append] using hafter

/-- The runs written out after `pre` are placed at the maximal runs that start there. -/
theorem mem_placeRuns_iff {rs : List (α × Nat)} {pre : List α} {s : Span α} (hpos : ∀ r ∈ rs, 0 < r.2)
    (hchain : rs.IsChain fun r r' => r.1 ≠ r'.1) (hpre : ∀ r ∈ rs.head?, pre.getLast? ≠ some r.1) :
    s ∈ placeRuns rs pre.length ↔
      pre.length ≤ s.start ∧ MaximalRun (pre ++ expandRuns rs) s.val s.start s.stop := by
  induction rs generalizing pre with
  | nil =>
    simp only [placeRuns, List.not_mem_nil, false_iff, not_and]
    intro hle h
    simpa [expandRuns, hle] using h.all _ (le_refl _) h.lt
  | cons r rs ih =>
    obtain ⟨c, k⟩ := r
    have hk : 0 < k := hpos _ List.mem_cons_self
    have hpos' : ∀ r ∈ rs, 0 < r.2 := fun r hr => hpos r (List.mem_cons_of_mem _ hr)
    have hnext : ∀ r ∈ rs.head?, c ≠ r.1 := fun r hr => (List.isChain_cons.1 hchain).1 r hr
    have hhead : MaximalRun (pre ++ expandRuns ((c, k) :: rs)) c pre.length (pre.length + k) := by
      refine maximalRun_head hk (hpre _ rfl) ?_
      rw [getElem?_zero_expandRuns hpos']
      intro h
      obtain ⟨r, hr, hrc⟩ := Option.map_eq_some_iff.1 h
      exact hnext r hr hrc.symm
    have hrest := ih (pre := pre ++ List.replicate k c) hpos' (List.isChain_cons.1 hchain).2
      (by simpa [List.getLast?_append, List.getLast?_replicate, hk.ne'] using hnext)
    rw [List.length_append, List.length_replicate, List.append_assoc] at hrest
    rw [placeRuns, List.mem_cons, hrest]
    constructor
    · rintro (rfl | ⟨hle, h⟩)
      · exact ⟨le_refl _, hhead⟩
      · exact ⟨by omega, h⟩
    · rintro ⟨hle, h⟩
      rcases lt_or_ge s.start (pre.length + k) with hlt | hge
      · obtain ⟨hv, ha, hb⟩ := hhead.eq_of_overlap h hle hlt
        exact .inl (by rw [hb, ha, hv])
      · exact .inr ⟨hge, h⟩

/-- The model's spans are the maximal runs. -/
theorem mem_spansOf_iff [DecidableEq α] {x : List α} {s : Span α} :
    s ∈ spansOf x ↔ MaximalRun x s.val s.start s.stop := by
  obtain ⟨hpos, hchain⟩ := runsOf_maximal x
  have h := mem_placeRuns_iff (pre := []) (s := s) hpos hchain (by simp)
  rwa [expandRuns_runsOf, List.nil_append, List.length_nil, and_iff_right (Nat.zero_le _)] at h

theorem le_start_of_mem_placeRuns {rs : List (α × Nat)} {i : Nat} {s : Span α} (h : s ∈ placeRuns rs i) :
    i ≤ s.start := by
  induction rs generalizing i with
  | nil => simp [placeRuns] at h
  | cons r rs ih =>
    rcases List.mem_cons.1 h with rfl | h
    · exact le_refl _
    · exact (Nat.le_add_right _ _).trans (ih h)

/-- The runs are placed in ascending order, none before the end of the one before it. -/
theorem placeRuns_pairwise (rs : List (α × Nat)) (i : Nat) :
    (placeRuns rs i).Pairwise fun s s' => s.stop ≤ s'.start := by
  induction rs generalizing i with
  | nil => exact .nil
  | cons r rs ih => exact List.pairwise_cons.2 ⟨fun _ => le_start_of_mem_placeRuns, ih _⟩

end Runs

/-! ### Sync runs -/

/-- A sync run is a maximal run of 1 bits, ten or more (43_bit_aligner.md R190). -/
theorem syncRun_iff_maximalRun {x : List Bool} {a b : Nat} :
    SyncRun x a b ↔ MaximalRun x true a b ∧ a + syncMinBits ≤ b := by
  have hfalse {k : Nat} (hk : k < x.length) : x[k]? = some false ↔ x[k]? ≠ some true := by
    simp [List.getElem?_eq_getElem hk]
  simp only [SyncRun, syncMinBits]
  constructor
  · rintro ⟨hmin, hle, hall, hbefore, hafter⟩
    refine ⟨⟨by omega, hall, hbefore.imp_right fun h => by simp [h], ?_⟩, hmin⟩
    rcases hafter with rfl | h
    · simp
    · simp [h]
  · rintro ⟨h, hmin⟩
    have hle : b ≤ x.length := by
      have := (List.getElem?_eq_some_iff.1 (h.all (b - 1) (by omega) (by omega))).1
      omega
    refine ⟨hmin, hle, h.all, h.before.imp_right (hfalse (by omega)).2, ?_⟩
    rcases hle.eq_or_lt with hb | hb
    · exact .inl hb
    · exact .inr ((hfalse hb).2 h.after)

/-- The model's sync runs are the sync runs (43_bit_aligner.md R190). -/
theorem mem_syncRuns_iff {x : List Bool} {r : Span Bool} :
    r ∈ syncRuns x ↔ r.val = true ∧ SyncRun x r.start r.stop := by
  rw [syncRuns, List.mem_filter, mem_spansOf_iff, syncRun_iff_maximalRun, Bool.and_eq_true, decide_eq_true_iff]
  constructor
  · rintro ⟨h, hv, hmin⟩
    exact ⟨hv, hv ▸ h, by have := h.lt; omega⟩
  · rintro ⟨hv, h, hmin⟩
    exact ⟨hv.symm ▸ h, hv, by omega⟩

theorem exists_mem_syncRuns_iff {x : List Bool} {p : Nat → Nat → Prop} :
    (∃ r ∈ syncRuns x, p r.start r.stop) ↔ ∃ a b, SyncRun x a b ∧ p a b := by
  constructor
  · rintro ⟨r, hr, hp⟩
    exact ⟨_, _, (mem_syncRuns_iff.1 hr).2, hp⟩
  · rintro ⟨a, b, h, hp⟩
    exact ⟨⟨true, a, b⟩, mem_syncRuns_iff.2 ⟨rfl, h⟩, hp⟩

/-- What ISSHIFT tests (43_bit_aligner.md R192). -/
theorem bitShifted_iff {x : List Bool} : bitShifted x = true ↔ ∃ a b, SyncRun x a b ∧ b ≠ x.length ∧ b % 8 ≠ 0 := by
  rw [← exists_mem_syncRuns_iff (p := fun _ b => b ≠ x.length ∧ b % 8 ≠ 0), bitShifted, List.any_eq_true]
  simp

/-! ### The cycle window -/

section Window
variable {s : State}

/-- The window does not lie in TB (60_exceptions.md R242). -/
theorem readWindow_of_outside (h : 8192 < s.cycs.toNat + s.cycl.toNat) : readWindow s = .error .range := if_pos h

variable (h : s.cycs.toNat + s.cycl.toNat ≤ 8192)
include h

/-- A byte of the window holds no value (20_memory.md R65). -/
theorem readWindow_of_unwritten (hu : readBytes s.tb s.cycs.toNat s.cycl.toNat = none) :
    readWindow s = .error .uninit := by
  rw [readWindow, if_neg (Nat.not_lt.2 h)]
  exact memRead_error_iff.2 (.inr ⟨rfl, .inr h, hu⟩)

theorem readWindow_of_written {l : List Byte} (hl : readBytes s.tb s.cycs.toNat s.cycl.toNat = some l) :
    readWindow s = .ok l := readWindow_ok_iff.2 ⟨h, hl⟩

end Window

/-- The two faults of a command that starts by reading the window (60_exceptions.md R242, R244). -/
theorem runCommand_of_window_fault {rule : State → Except FaultCode State} {f : State → List Byte → Except FaultCode State}
    (hrule : ∀ s, rule s = readWindow s >>= f s) {s : State} (hs : s.flag .fault = false) :
    (8192 < s.cycs.toNat + s.cycl.toNat → runCommand rule s = .next (faulted 0x02 s))
    ∧ (s.cycs.toNat + s.cycl.toNat ≤ 8192 → readBytes s.tb s.cycs.toNat s.cycl.toNat = none →
        runCommand rule s = .next (faulted 0x04 s)) := by
  have fault {c : FaultCode} (h : readWindow s = .error c) : runCommand rule s = .next (faulted (faultNumber c) s) :=
    runCommand_of_error hs ((hrule _).trans (bind_error_iff.2 (.inl ((readWindow_setFlag s _ _).trans h))))
  exact ⟨fun h => fault (readWindow_of_outside h), fun h hu => fault (readWindow_of_unwritten h hu)⟩

/-! ### ISSHIFT -/

/-- ISSHIFT on a written window (43_bit_aligner.md R192). -/
theorem exec_isshift_of_window {s : State} {l : List Byte} (hs : s.flag .fault = false) (h : readWindow s = .ok l) :
    exec .isshift s = .next { s with status := doneWith s.status 0x08 (bitShifted (bitString l)) } := by
  have hrule : ruleIsshift (s.setFlag .done false) = .ok ((s.setFlag .done false).setFlag .shifted _) :=
    bind_ok_iff.2 ⟨l, (readWindow_setFlag s _ _).trans h, rfl⟩
  rw [← withFlag_done_eq_doneWith (f := .shifted) (bit := 0x08) (by decide) rfl]
  exact runCommand_of_ok hs hrule

/-- Settles O32: the faults by the read of the window, the flag by `bitShifted_iff`. -/
theorem isshiftTestsTheSyncEnds : Obligations.IsshiftTestsTheSyncEnds := by
  intro s hs
  obtain ⟨hout, hunwritten⟩ := runCommand_of_window_fault (rule := ruleIsshift) (fun _ => rfl) hs
  refine ⟨hout, hunwritten, fun l h hl =>
    ⟨bitShifted (bitString l), exec_isshift_of_window hs (readWindow_of_written h hl), ?_⟩⟩
  rw [bitShifted_iff, bitString_length, readBytes_length hl]


/-! ### Inserting zeros into a bit string -/

/-- The bits `x`, the first of them at position `i`, with `pad k` zeros immediately before the bit at position `k`. -/
def insertZeros (pad : Nat → Nat) : Nat → List Bool → List Bool
  | _, [] => []
  | i, v :: x => List.replicate (pad i) false ++ v :: insertZeros pad (i + 1) x

/-- The zeros that `pad` inserts before the `n` positions from `i` on. -/
def padSum (pad : Nat → Nat) (i n : Nat) : Nat := ((List.range' i n).map pad).sum

section Insert
variable {pad pad' : Nat → Nat}

theorem padSum_succ (i n : Nat) : padSum pad i (n + 1) = pad i + padSum pad (i + 1) n := by
  simp [padSum, List.range'_succ]

theorem padSum_add (i m n : Nat) : padSum pad i (m + n) = padSum pad i m + padSum pad (i + m) n := by
  simp [padSum, ← List.range'_append_1]

theorem padSum_congr {i n : Nat} (h : ∀ k, i ≤ k → k < i + n → pad k = pad' k) : padSum pad i n = padSum pad' i n :=
  congrArg List.sum (List.map_congr_left fun k hk => by
    rw [List.mem_range'_1] at hk
    exact h k hk.1 hk.2)

theorem padSum_eq_zero {i n : Nat} (h : ∀ k, i ≤ k → k < i + n → pad k = 0) : padSum pad i n = 0 := by
  rw [padSum_congr (pad' := fun _ => 0) h]
  simp [padSum]

theorem padSum_zero_eq (n : Nat) : padSum pad 0 n = ((List.range n).map pad).sum := by
  rw [padSum, List.range_eq_range']

theorem insertZeros_append (i : Nat) (x y : List Bool) :
    insertZeros pad i (x ++ y) = insertZeros pad i x ++ insertZeros pad (i + x.length) y := by
  induction x generalizing i with
  | nil => rfl
  | cons v x ih => simp [insertZeros, ih, Nat.add_assoc, Nat.add_comm 1]

theorem insertZeros_congr {i : Nat} {x : List Bool} (h : ∀ k, i ≤ k → k < i + x.length → pad k = pad' k) :
    insertZeros pad i x = insertZeros pad' i x := by
  induction x generalizing i with
  | nil => rfl
  | cons v x ih =>
    rw [List.length_cons] at h
    rw [insertZeros, insertZeros, h i (le_refl _) (by omega), ih fun k hle hlt => h k (by omega) (by omega)]

theorem insertZeros_eq_self {i : Nat} {x : List Bool} (h : ∀ k, i ≤ k → k < i + x.length → pad k = 0) :
    insertZeros pad i x = x := by
  rw [insertZeros_congr (pad' := fun _ => 0) h]
  clear h
  induction x generalizing i with
  | nil => rfl
  | cons v x ih => rw [insertZeros, ih, List.replicate_zero, List.nil_append]

/-- Zeros before the first bit only. -/
theorem insertZeros_of_first {i : Nat} {x : List Bool} (hx : x ≠ []) (h : ∀ k, i < k → k < i + x.length → pad k = 0) :
    insertZeros pad i x = List.replicate (pad i) false ++ x := by
  cases x with
  | nil => exact absurd rfl hx
  | cons v x =>
    rw [List.length_cons] at h
    rw [insertZeros, insertZeros_eq_self fun k hle hlt => h k (by omega) (by omega)]

theorem padSum_of_first {i n : Nat} (hn : 0 < n) (h : ∀ k, i < k → k < i + n → pad k = 0) : padSum pad i n = pad i := by
  obtain ⟨n, rfl⟩ := Nat.exists_eq_add_of_lt hn
  rw [Nat.zero_add, padSum_succ, padSum_eq_zero fun k hle hlt => h k (by omega) (by omega), Nat.add_zero]

theorem length_insertZeros (i : Nat) (x : List Bool) :
    (insertZeros pad i x).length = x.length + padSum pad i x.length := by
  induction x generalizing i with
  | nil => rfl
  | cons v x ih =>
    rw [insertZeros, List.length_append, List.length_replicate, List.length_cons, ih, List.length_cons, padSum_succ]
    omega

theorem sublist_insertZeros (i : Nat) (x : List Bool) : x.Sublist (insertZeros pad i x) := by
  induction x generalizing i with
  | nil => exact .slnil
  | cons v x ih => exact ((ih _).cons_cons v).trans (List.sublist_append_right _ _)

theorem countP_insertZeros (i : Nat) (x : List Bool) : (insertZeros pad i x).countP id = x.countP id := by
  induction x generalizing i with
  | nil => rfl
  | cons v x ih => simp [insertZeros, List.countP_cons, List.countP_replicate, ih]

theorem insertZeros_zero_eq_flatMap (x : List Bool) :
    insertZeros pad 0 x = (List.range x.length).flatMap fun k => List.replicate (pad k) false ++ [x.getD k false] := by
  induction x using List.reverseRecOn with
  | nil => rfl
  | append_singleton x v ih =>
    rw [insertZeros_append, ih, List.length_append, List.length_singleton, List.range_succ, List.flatMap_append,
      Nat.zero_add]
    congr 1
    · refine List.flatMap_congr fun k hk => ?_
      rw [List.getD_append _ _ _ _ (List.mem_range.1 hk)]
    · simp [insertZeros]

/-- The 1 bits of the output are those of the input, each moved by the zeros inserted up to it. -/
theorem getElem?_insertZeros_eq_true_iff {i m : Nat} {x : List Bool} :
    (insertZeros pad i x)[m]? = some true ↔ ∃ k, x[k]? = some true ∧ m = k + padSum pad i (k + 1) := by
  induction x generalizing i m with
  | nil => simp [insertZeros]
  | cons v x ih =>
    rw [insertZeros]
    rcases lt_or_ge m (pad i) with hlt | hge
    · rw [List.getElem?_append_left (by simpa using hlt)]
      simp only [List.getElem?_replicate, hlt, if_true, Option.some.injEq, Bool.false_eq_true, false_iff, not_exists]
      rintro k ⟨-, hm⟩
      rw [padSum_succ] at hm
      omega
    · rw [List.getElem?_append_right (by simpa using hge), List.length_replicate]
      obtain ⟨d, rfl⟩ := Nat.exists_eq_add_of_le hge
      rw [Nat.add_sub_cancel_left]
      cases d with
      | zero =>
        simp only [List.getElem?_cons_zero, Option.some.injEq]
        constructor
        · rintro rfl
          exact ⟨0, rfl, by simp [padSum]⟩
        · rintro ⟨k, hk, hm⟩
          obtain rfl : k = 0 := by rw [padSum_succ] at hm; omega
          simpa using hk
      | succ d =>
        rw [List.getElem?_cons_succ, ih]
        constructor
        · rintro ⟨k, hk, rfl⟩
          exact ⟨k + 1, hk, by rw [padSum_succ i]; omega⟩
        · rintro ⟨k, hk, hm⟩
          rw [padSum_succ i] at hm
          cases k with
          | zero => simp [padSum] at hm
          | succ k => exact ⟨k, hk, by omega⟩

end Insert

/-! ### The sync runs of the output -/

section Output
variable {pad : Nat → Nat} {x : List Bool}

/-- The place in the output of the input's bit `k`. -/
def bitPlace (pad : Nat → Nat) (k : Nat) : Nat := k + padSum pad 0 (k + 1)

theorem bitPlace_succ (k : Nat) : bitPlace pad (k + 1) = bitPlace pad k + pad (k + 1) + 1 := by
  have hlast : padSum pad (0 + (k + 1)) 1 = pad (k + 1) := by simp [padSum]
  rw [bitPlace, bitPlace, padSum_add 0 (k + 1) 1, hlast]
  omega

theorem bitPlace_strictMono (pad : Nat → Nat) : StrictMono (bitPlace pad) :=
  strictMono_nat_of_lt_succ fun k => by
    rw [bitPlace_succ]
    omega

theorem getElem?_bitPlace_eq_true_iff {m : Nat} :
    (insertZeros pad 0 x)[m]? = some true ↔ ∃ k, x[k]? = some true ∧ m = bitPlace pad k :=
  getElem?_insertZeros_eq_true_iff

/-- Consecutive 1 bits of the output are consecutive 1 bits of the input, with no zero inserted between them. -/
theorem ones_of_insertZeros {i n : Nat}
    (h : ∀ m, bitPlace pad i ≤ m → m < bitPlace pad i + n → (insertZeros pad 0 x)[m]? = some true) :
    ∀ t < n, x[i + t]? = some true ∧ bitPlace pad (i + t) = bitPlace pad i + t := by
  intro t
  induction t with
  | zero =>
    intro ht
    obtain ⟨k, hk, hm⟩ := getElem?_bitPlace_eq_true_iff.1 (h _ (le_refl _) (by omega))
    obtain rfl : i = k := (bitPlace_strictMono pad).injective hm
    exact ⟨hk, rfl⟩
  | succ t ih =>
    intro ht
    obtain ⟨-, hplace⟩ := ih (by omega)
    obtain ⟨k, hk, hm⟩ := getElem?_bitPlace_eq_true_iff.1 (h (bitPlace pad i + (t + 1)) (by omega) (by omega))
    have hlt : i + t < k := (bitPlace_strictMono pad).lt_iff_lt.1 (by omega)
    have hle : bitPlace pad (i + t + 1) ≤ bitPlace pad k := (bitPlace_strictMono pad).monotone hlt
    have hsucc := bitPlace_succ (pad := pad) (i + t)
    obtain rfl : i + t + 1 = k := (bitPlace_strictMono pad).injective (by omega)
    exact ⟨hk, hm.symm⟩

/-- Zeros inserted only at the start or after a 0 bit split, lengthen and create no run: a sync run of the output is one of
the input, moved by the zeros inserted up to it (43_bit_aligner.md R196 (e)). -/
theorem exists_syncRun_of_insertZeros (hpad : ∀ k, pad (k + 1) ≠ 0 → x[k]? = some false) {a b : Nat}
    (h : SyncRun (insertZeros pad 0 x) a b) : ∃ i j, SyncRun x i j ∧ b = j + padSum pad 0 (i + 1) := by
  obtain ⟨hrun, hmin⟩ := syncRun_iff_maximalRun.1 h
  obtain ⟨i, -, rfl⟩ := getElem?_bitPlace_eq_true_iff.1 (hrun.all a (le_refl _) hrun.lt)
  obtain ⟨n, rfl⟩ := Nat.exists_eq_add_of_lt hrun.lt
  have hones := ones_of_insertZeros (n := n + 1) hrun.all
  have hpad_zero {k : Nat} (hk : x[k]? = some true) : pad (k + 1) = 0 := by
    by_contra hne
    simp [hpad k hne] at hk
  refine ⟨i, i + n + 1, syncRun_iff_maximalRun.2 ⟨⟨by omega, fun k hle hlt => ?_, ?_, fun hx => hrun.after ?_⟩, by omega⟩,
    by rw [bitPlace]; omega⟩
  · have hk := (hones (k - i) (by omega)).1
    rwa [Nat.add_sub_of_le hle] at hk
  · cases i with
    | zero => exact .inl rfl
    | succ k =>
      refine .inr fun (hx : x[k]? = some true) => ?_
      have hplace := bitPlace_succ (pad := pad) k
      rw [hpad_zero hx] at hplace
      refine hrun.before.elim (by omega) fun hb => hb ?_
      exact getElem?_bitPlace_eq_true_iff.2 ⟨k, hx, by omega⟩
  · obtain ⟨hlast, hplace⟩ := hones n (by omega)
    have hsucc := bitPlace_succ (pad := pad) (i + n)
    rw [hpad_zero hlast] at hsucc
    exact getElem?_bitPlace_eq_true_iff.2 ⟨i + n + 1, hx, by omega⟩

end Output

/-! ### The walk of ALIGNBS -/

/-- Sync runs of `x` from the position `cur` on, in ascending order, as the walk of ALIGNBS takes them (43_bit_aligner.md
R195). -/
inductive SyncRunsFrom (x : List Bool) : Nat → List (Span Bool) → Prop
  | nil {cur : Nat} (h : cur ≤ x.length) : SyncRunsFrom x cur []
  | cons {cur : Nat} {r : Span Bool} {rs : List (Span Bool)} (hle : cur ≤ r.start) (hrun : SyncRun x r.start r.stop)
      (hrest : SyncRunsFrom x r.stop rs) : SyncRunsFrom x cur (r :: rs)

/-- The zeros that the walk inserts before the run `r`, `p` inserted before: all bits before it are emitted then
(43_bit_aligner.md R195). -/
def runPad (r : Span Bool) (p : Nat) : Nat := padBits p r.start (r.stop - r.start)

/-- The zeros that the walk over `rs` inserts before position `a`, `p` inserted before. -/
def padAt : List (Span Bool) → Nat → Nat → Nat
  | [], _, _ => 0
  | r :: rs, p, a => if a = r.start then runPad r p else padAt rs (p + runPad r p) a

theorem SyncRun.start_lt_stop {x : List Bool} {a b : Nat} (h : SyncRun x a b) : a < b := by
  have := h.1
  omega

/-- The bits of a sync run are ones: emitting ones copies it (43_bit_aligner.md R195). -/
theorem SyncRun.bitCopy_one {x : List Bool} {a b : Nat} (h : SyncRun x a b) (sp : Nat) :
    bitCopy .one x sp (b - a) = (x.drop a).take (b - a) := by
  obtain ⟨hmin, hle, hall, -⟩ := h
  refine List.ext_getElem? fun k => ?_
  rw [bitCopy, List.getElem?_replicate, List.getElem?_take, List.getElem?_drop]
  split
  next hk => exact (hall _ (by omega) (by omega)).symm
  next => rfl

section Walk
variable {x : List Bool} {cur : Nat} {rs : List (Span Bool)}

theorem syncRunsFrom_of_pairwise (hcur : cur ≤ x.length) (hrun : ∀ r ∈ rs, cur ≤ r.start ∧ SyncRun x r.start r.stop)
    (hord : rs.Pairwise fun r r' => r.stop ≤ r'.start) : SyncRunsFrom x cur rs := by
  induction rs generalizing cur with
  | nil => exact .nil hcur
  | cons r rs ih =>
    obtain ⟨hle, hr⟩ := hrun r List.mem_cons_self
    obtain ⟨hhead, htail⟩ := List.pairwise_cons.1 hord
    exact .cons hle hr (ih hr.2.1 (fun r' h => ⟨hhead r' h, (hrun r' (List.mem_cons_of_mem _ h)).2⟩) htail)

theorem syncRunsFrom_syncRuns (x : List Bool) : SyncRunsFrom x 0 (syncRuns x) :=
  syncRunsFrom_of_pairwise (Nat.zero_le _) (fun _ h => ⟨Nat.zero_le _, (mem_syncRuns_iff.1 h).2⟩)
    ((placeRuns_pairwise _ _).filter _)

theorem padAt_eq_zero {p a : Nat} (h : ∀ r ∈ rs, r.start ≠ a) : padAt rs p a = 0 := by
  induction rs generalizing p with
  | nil => rfl
  | cons r rs ih =>
    rw [padAt, if_neg (h r List.mem_cons_self).symm]
    exact ih fun r' hr' => h r' (List.mem_cons_of_mem _ hr')

theorem runPad_lt (r : Span Bool) (p : Nat) : runPad r p < 8 := Nat.mod_lt _ (by omega)

theorem padAt_lt (rs : List (Span Bool)) (p a : Nat) : padAt rs p a < 8 := by
  induction rs generalizing p with
  | nil => simp [padAt]
  | cons r rs ih =>
    rw [padAt]
    split
    · exact runPad_lt r p
    · exact ih _

theorem SyncRunsFrom.le_start (h : SyncRunsFrom x cur rs) : ∀ r ∈ rs, cur ≤ r.start := by
  induction h with
  | nil => simp
  | cons hle hrun _ ih =>
    rintro r' (_ | ⟨_, hr'⟩)
    · exact hle
    · have := ih r' hr'
      have := hrun.start_lt_stop
      omega

theorem SyncRunsFrom.le_length (h : SyncRunsFrom x cur rs) : cur ≤ x.length := by
  cases h with
  | nil h => exact h
  | cons hle hrun =>
    have := hrun.start_lt_stop
    have := hrun.2.1
    omega

theorem SyncRunsFrom.padAt_of_lt (h : SyncRunsFrom x cur rs) {p a : Nat} (ha : a < cur) : padAt rs p a = 0 :=
  padAt_eq_zero fun r hr => by
    have := h.le_start r hr
    omega


theorem padAt_cons_of_stop_le {r : Span Bool} (hrun : SyncRun x r.start r.stop) (p : Nat) {k : Nat} (hk : r.stop ≤ k) :
    padAt (r :: rs) p k = padAt rs (p + runPad r p) k := if_neg (hrun.start_lt_stop.trans_le hk).ne'

theorem SyncRunsFrom.padAt_cons_of_lt_stop {r : Span Bool} (hrest : SyncRunsFrom x r.stop rs) (p : Nat) {k : Nat}
    (hne : k ≠ r.start) (hk : k < r.stop) : padAt (r :: rs) p k = 0 := (if_neg hne).trans (hrest.padAt_of_lt hk)

section Cons
variable {r : Span Bool} (hle : cur ≤ r.start) (hrun : SyncRun x r.start r.stop) (hrest : SyncRunsFrom x r.stop rs) (p : Nat)
include hle hrun hrest

/-- Up to the end of the first run only its own zeros are inserted. -/
theorem padSum_padAt_cons (n : Nat) : padSum (padAt (r :: rs) p) cur (r.stop - cur + n)
    = runPad r p + padSum (padAt rs (p + runPad r p)) r.stop n := by
  have hlt := hrun.start_lt_stop
  have hsplit : r.stop - cur + n = r.start - cur + ((r.stop - r.start) + n) := by omega
  have hdata : padSum (padAt (r :: rs) p) cur (r.start - cur) = 0 :=
    padSum_eq_zero fun k _ hk => hrest.padAt_cons_of_lt_stop p (by omega) (by omega)
  have hsync : padSum (padAt (r :: rs) p) r.start (r.stop - r.start) = runPad r p :=
    (padSum_of_first (by omega) fun k _ hk => hrest.padAt_cons_of_lt_stop p (by omega) (by omega)).trans (if_pos rfl)
  rw [hsplit, padSum_add, padSum_add, hdata, Nat.add_sub_of_le hle, hsync, Nat.add_sub_of_le hlt.le, Nat.zero_add,
    padSum_congr fun k hk _ => padAt_cons_of_stop_le hrun p hk]

/-- Up to the end of the first run the output is the data, the run's zeros and the run (43_bit_aligner.md R195). -/
theorem insertZeros_padAt_cons : insertZeros (padAt (r :: rs) p) cur (x.drop cur)
    = (x.drop cur).take (r.start - cur) ++ List.replicate (runPad r p) false ++ (x.drop r.start).take (r.stop - r.start)
      ++ insertZeros (padAt rs (p + runPad r p)) r.stop (x.drop r.stop) := by
  have hlt := hrun.start_lt_stop
  have hstop := hrun.2.1
  have hsplit : x.drop cur = (x.drop cur).take (r.start - cur) ++ ((x.drop r.start).take (r.stop - r.start)
      ++ x.drop r.stop) := by
    have h1 := List.take_append_drop (r.start - cur) (x.drop cur)
    have h2 := List.take_append_drop (r.stop - r.start) (x.drop r.start)
    rw [List.drop_drop, Nat.add_sub_of_le hle] at h1
    rw [List.drop_drop, Nat.add_sub_of_le hlt.le] at h2
    rw [h2, h1]
  have hdata : ((x.drop cur).take (r.start - cur)).length = r.start - cur := by
    rw [List.length_take, List.length_drop]
    omega
  have hsync : ((x.drop r.start).take (r.stop - r.start)).length = r.stop - r.start := by
    rw [List.length_take, List.length_drop]
    omega
  have hne : (x.drop r.start).take (r.stop - r.start) ≠ [] := List.ne_nil_of_length_pos (by omega)
  conv_lhs => rw [hsplit]
  rw [insertZeros_append, insertZeros_append, hdata, hsync, Nat.add_sub_of_le hle, Nat.add_sub_of_le hlt.le,
    insertZeros_eq_self fun k _ hk => hrest.padAt_cons_of_lt_stop p (by omega) (by omega),
    insertZeros_of_first hne fun k _ hk => hrest.padAt_cons_of_lt_stop p (by omega) (by omega),
    insertZeros_congr fun k hk _ => padAt_cons_of_stop_le hrun p hk, padAt, if_pos rfl]
  simp only [List.append_assoc]

end Cons

/-- The walk inserts the zeros of `padAt` and counts them (43_bit_aligner.md R195). -/
theorem alignWalk_eq (h : SyncRunsFrom x cur rs) (p : Nat) : alignWalk x rs cur (cur + p)
    = (insertZeros (padAt rs p) cur (x.drop cur), padSum (padAt rs p) cur (x.length - cur)) := by
  induction h generalizing p with
  | nil h =>
    have hnone (i : Nat) : padAt [] p i = 0 := rfl
    rw [alignWalk, insertZeros_eq_self fun k _ _ => hnone k, padSum_eq_zero fun k _ _ => hnone k, bitCopy,
      List.take_of_length_le (by simp)]
  | @cons cur r rs hle hrun hrest ih =>
    have hlt := hrun.start_lt_stop
    have hstop := hrun.2.1
    have hpad : padBits (cur + p) (r.start - cur) (r.stop - r.start) = runPad r p := by
      rw [runPad, padBits, padBits]
      congr 3
      omega
    have hused : cur + p + (r.start - cur) + runPad r p + (r.stop - r.start) = r.stop + (p + runPad r p) := by omega
    have hlen : x.length - cur = r.stop - cur + (x.length - r.stop) := by omega
    rw [hlen, padSum_padAt_cons hle hrun hrest, insertZeros_padAt_cons hle hrun hrest, alignWalk]
    simp only [hpad, hused, ih, hrun.bitCopy_one]
    rfl

/-- Every run ends on a byte boundary of the output: the zeros up to it fill its end up (43_bit_aligner.md R195). -/
theorem SyncRunsFrom.aligned (h : SyncRunsFrom x cur rs) (p : Nat) :
    ∀ r ∈ rs, (r.stop + (p + padSum (padAt rs p) cur (r.start + 1 - cur))) % 8 = 0 := by
  induction h generalizing p with
  | nil => simp
  | @cons cur r rs hle hrun hrest ih =>
    have hlt := hrun.start_lt_stop
    rintro r' (_ | ⟨_, hr'⟩)
    · have hsum : padSum (padAt (r :: rs) p) cur (r.start + 1 - cur) = runPad r p := by
        rw [Nat.sub_add_comm hle, padSum_add, Nat.add_sub_of_le hle,
          padSum_eq_zero fun k _ hk => hrest.padAt_cons_of_lt_stop p (by omega) (by omega), Nat.zero_add,
          padSum_of_first one_pos fun k _ _ => by omega, padAt, if_pos rfl]
      rw [hsum, runPad, padBits]
      omega
    · have hr := hrest.le_start r' hr'
      have hsplit : r'.start + 1 - cur = r.stop - cur + (r'.start + 1 - r.stop) := by omega
      rw [hsplit, padSum_padAt_cons hle hrun hrest, ← Nat.add_assoc p]
      exact ih _ r' hr'

/-- At most seven zeros for every ten bits (43_bit_aligner.md R196 (a)). -/
theorem SyncRunsFrom.padSum_le (h : SyncRunsFrom x cur rs) (p : Nat) :
    10 * padSum (padAt rs p) cur (x.length - cur) ≤ 7 * (x.length - cur) := by
  induction h generalizing p with
  | nil h =>
    rw [padSum_eq_zero (pad := padAt [] p) fun _ _ _ => rfl]
    omega
  | @cons cur r rs hle hrun hrest ih =>
    have hmin := hrun.1
    have hstop := hrun.2.1
    have hlen : x.length - cur = r.stop - cur + (x.length - r.stop) := by omega
    have hpad := runPad_lt r p
    have hih := ih (p + runPad r p)
    rw [hlen, padSum_padAt_cons hle hrun hrest]
    omega

end Walk

/-! ### ALIGNBS -/

/-- The zeros that ALIGNBS inserts before each position of the bit string (43_bit_aligner.md R195). -/
def syncPad (x : List Bool) : Nat → Nat := padAt (syncRuns x) 0

section SyncPad
variable {x : List Bool}

theorem alignBits_eq (x : List Bool) : alignBits x = (insertZeros (syncPad x) 0 x, padSum (syncPad x) 0 x.length) :=
  alignWalk_eq (syncRunsFrom_syncRuns x) 0

theorem syncPad_eq_zero {a : Nat} (h : ∀ b, ¬ SyncRun x a b) : syncPad x a = 0 :=
  padAt_eq_zero fun _ hr ha => h _ (ha ▸ (mem_syncRuns_iff.1 hr).2)

theorem syncPad_aligns {a b : Nat} (h : SyncRun x a b) : (b + padSum (syncPad x) 0 (a + 1)) % 8 = 0 := by
  have hal := (syncRunsFrom_syncRuns x).aligned 0 ⟨true, a, b⟩ (mem_syncRuns_iff.2 ⟨rfl, h⟩)
  rwa [Nat.zero_add] at hal

/-- ALIGNBS inserts zeros at the start or after a 0 bit only (43_bit_aligner.md R196 (e)). -/
theorem eq_false_of_syncPad_ne_zero {k : Nat} (h : syncPad x (k + 1) ≠ 0) : x[k]? = some false := by
  obtain ⟨b, hb⟩ := not_forall_not.1 (mt syncPad_eq_zero h)
  obtain ⟨-, -, -, hbefore, -⟩ := hb
  exact hbefore.resolve_left (Nat.succ_ne_zero k)

theorem syncRun_alignBits_aligned {a b : Nat} (h : SyncRun (alignBits x).1 a b) : b % 8 = 0 := by
  rw [alignBits_eq] at h
  obtain ⟨i, j, hrun, rfl⟩ := exists_syncRun_of_insertZeros (fun _ => eq_false_of_syncPad_ne_zero) h
  exact syncPad_aligns hrun

theorem length_alignBits (x : List Bool) : (alignBits x).1.length = x.length + (alignBits x).2 := by
  rw [alignBits_eq, length_insertZeros]

theorem alignBits_pads_le (x : List Bool) : 10 * (alignBits x).2 ≤ 7 * x.length := by
  rw [alignBits_eq]
  exact (syncRunsFrom_syncRuns x).padSum_le 0

end SyncPad

/-- The output of ALIGNBS fits WB, and its two counts fit their registers (43_bit_aligner.md R196 (a)). -/
theorem alignBits_fits {x : List Bool} (h : x.length ≤ 8 * tbCap) :
    byteCount (alignBits x).1.length ≤ wbCap ∧ (alignBits x).2 < 2 ^ 16 := by
  have hlen := length_alignBits x
  have hpads := alignBits_pads_le x
  simp only [byteCount, tbCap, wbCap] at *
  omega

/-- ALIGNBS on a written window (43_bit_aligner.md R195). -/
theorem ruleAlignbs_of_window {s : State} {l : List Byte} (h : readWindow s = .ok l)
    (hfits : byteCount (alignBits (bitString l)).1.length ≤ wbCap) :
    ruleAlignbs s = .ok { s with
      wb := writeBytes s.wb 0 (packBits (byteCount (alignBits (bitString l)).1.length) (alignBits (bitString l)).1)
      outlen := BitVec.ofNat 16 (byteCount (alignBits (bitString l)).1.length)
      padbits := BitVec.ofNat 16 (alignBits (bitString l)).2 } :=
  bind_ok_iff.2 ⟨l, h, bind_ok_iff.2 ⟨_, memWrite_ok_iff.2 ⟨.inr (by rwa [packBits_length, Nat.zero_add]), rfl⟩, rfl⟩⟩

/-- ALIGNBS completes on every written window (43_bit_aligner.md R196 (g)). -/
theorem exec_alignbs_of_window {s : State} {l : List Byte} (hs : s.flag .fault = false) (h : readWindow s = .ok l)
    (hfits : byteCount (alignBits (bitString l)).1.length ≤ wbCap) :
    exec .alignbs s = .next { s with
      wb := writeBytes s.wb 0 (packBits (byteCount (alignBits (bitString l)).1.length) (alignBits (bitString l)).1)
      outlen := BitVec.ofNat 16 (byteCount (alignBits (bitString l)).1.length)
      padbits := BitVec.ofNat 16 (alignBits (bitString l)).2, status := s.status ||| 0x01 } := by
  rw [← withFlag_done_done]
  exact runCommand_of_ok hs (ruleAlignbs_of_window ((readWindow_setFlag s _ _).trans h) hfits)

/-- Settles O33: the faults by the read of the window; the output is the window with the zeros `syncPad`
inserted (`alignBits_eq`), which fits (`alignBits_fits`), and its sync runs end as `syncRun_alignBits_aligned` says. -/
theorem alignbsAlignsEverySync : Obligations.AlignbsAlignsEverySync := by
  intro s hs
  obtain ⟨hout, hunwritten⟩ := runCommand_of_window_fault (rule := ruleAlignbs) (fun _ => rfl) hs
  refine ⟨hout, hunwritten, ?_⟩
  rintro l x h hl rfl
  have hlen : (bitString l).length = 8 * s.cycl.toNat := by rw [bitString_length, readBytes_length hl]
  obtain ⟨hfits, hpads⟩ := alignBits_fits (x := bitString l) (by simp only [tbCap]; omega)
  have hbits := alignBits_eq (bitString l)
  have houtlen := Nat.mod_eq_of_lt (hfits.trans_lt (by decide : wbCap < 2 ^ 16))
  have hpadbits := Nat.mod_eq_of_lt hpads
  refine ⟨_, syncPad (bitString l), (alignBits (bitString l)).1,
    exec_alignbs_of_window hs (readWindow_of_written h hl) hfits, rfl, fun a => syncPad_eq_zero,
    fun a b hab => ⟨padAt_lt _ _ _, ?_⟩, ?_, ?_, ?_, ?_, fun a b => syncRun_alignBits_aligned, ?_, ?_, ?_⟩
  · rw [← padSum_zero_eq]
    exact syncPad_aligns hab
  · rw [hbits, insertZeros_zero_eq_flatMap]
  · rw [BitVec.toNat_ofNat, hpadbits, ← padSum_zero_eq, hbits]
  · rw [BitVec.toNat_ofNat, BitVec.toNat_ofNat, houtlen, hpadbits, byteCount, length_alignBits, hlen]
  · rw [BitVec.toNat_ofNat, houtlen]
    exact stored_writeBytes _ _ _
  · rw [hbits]
    exact sublist_insertZeros 0 _
  · rw [BitVec.toNat_ofNat, hpadbits, length_alignBits, hlen]
  · rw [hbits]
    exact countP_insertZeros 0 _

end Sys2Proof.Machine
end

section
/-! The loop and the command that the three reducers share (44_neighbour_units.md R220, R223): what every pass keeps holds of
the result, a pass that strips nothing ends the loop, and what each check of a reducer command answers. -/

namespace Sys2Proof.Machine

/-! ### The loop -/

/-- A pass drops as many bytes as it counts, keeps the order, and stops at the target (44_neighbour_units.md R223). -/
structure IsPass (target : Nat) (pass : List Byte → List Byte × Nat) : Prop where
  sublist : ∀ l, (pass l).1.Sublist l
  length_add : ∀ l, (pass l).1.length + (pass l).2 = l.length
  le_length : ∀ l, target ≤ l.length → target ≤ (pass l).1.length

/-- A pass that strips nothing leaves the buffer as it is. -/
theorem IsPass.eq_of_stripped_eq_zero {target : Nat} {pass : List Byte → List Byte × Nat} (h : IsPass target pass)
    {l : List Byte} (h0 : (pass l).2 = 0) : (pass l).1 = l :=
  (h.sublist l).eq_of_length (by have := h.length_add l; omega)

/-- The loop keeps what its passes keep; its result is part of the buffer, not shorter than the target, and over the target
only where a further pass would strip nothing (44_neighbour_units.md R220, R223). -/
theorem IsPass.reduceLoop_spec {target : Nat} {pass : List Byte → List Byte × Nat} (h : IsPass target pass)
    {I : List Byte → Prop} (step : ∀ l, I l → target < l.length → (pass l).2 ≠ 0 → I (pass l).1) {fuel : Nat}
    {l : List Byte} (hfuel : l.length ≤ fuel) (hl : I l) :
    I (reduceLoop target pass fuel l) ∧ (reduceLoop target pass fuel l).Sublist l
      ∧ min l.length target ≤ (reduceLoop target pass fuel l).length
      ∧ (target < (reduceLoop target pass fuel l).length → (pass (reduceLoop target pass fuel l)).2 = 0) := by
  induction fuel generalizing l with
  | zero =>
    have hnil : l.length = 0 := by omega
    exact ⟨hl, .refl _, Nat.min_le_left _ _, fun hlt => by simp [reduceLoop, hnil] at hlt⟩
  | succ fuel ih =>
    simp only [reduceLoop]
    split_ifs with hlt h0
    · rw [h.eq_of_stripped_eq_zero h0]
      exact ⟨hl, .refl _, Nat.min_le_left _ _, fun _ => h0⟩
    · have hcount := h.length_add l
      have htarget := h.le_length l hlt.le
      obtain ⟨hI, hsub, hmin, hend⟩ := ih (by omega) (step l hl hlt h0)
      exact ⟨hI, hsub.trans (h.sublist l), by omega, hend⟩
    · exact ⟨hl, .refl _, Nat.min_le_left _ _, fun h => absurd h hlt⟩

/-! ### The command -/

section ReduceCommand
variable {f : List Byte → List Byte} {s : State}

theorem reduceCommand_of_unwritten (h : s.len.toNat ≤ tbCap) (hu : readBytes s.tb 0 s.len.toNat = none) :
    reduceCommand f s = .error .uninit := by
  rw [reduceCommand, if_neg (Nat.not_lt.2 h)]
  exact bind_error_iff.2 (.inl (memRead_error_iff.2 (.inr ⟨rfl, .inr (by rwa [Nat.zero_add]), hu⟩)))

theorem reduceCommand_of_written (h : s.len.toNat ≤ tbCap) {l : List Byte} (hl : readBytes s.tb 0 s.len.toNat = some l)
    (hf : (f l).length ≤ l.length) :
    reduceCommand f s = .ok { s with
      tb := writeBytes s.tb 0 (f l), len := BitVec.ofNat 16 (f l).length, outlen := BitVec.ofNat 16 (f l).length } := by
  have hlen := readBytes_length hl
  rw [reduceCommand, if_neg (Nat.not_lt.2 h)]
  refine bind_ok_iff.2 ⟨l, memRead_ok_iff.2 ⟨.inr (by rwa [Nat.zero_add]), hl⟩, ?_⟩
  exact bind_ok_iff.2 ⟨_, memWrite_ok_iff.2 ⟨.inr (by simp only [bufCap]; omega), rfl⟩, rfl⟩

end ReduceCommand

/-- The three answers of a reducer command on an unfaulted block (44_neighbour_units.md R220). -/
theorem runCommand_reduceCommand {rule : State → Except FaultCode State} {f : List Byte → List Byte} {s : State}
    (hrule : rule (s.setFlag .done false) = reduceCommand f (s.setFlag .done false)) (hs : s.flag .fault = false) :
    (8192 < s.len.toNat → runCommand rule s = .next (faulted 0x02 s))
    ∧ (s.len.toNat ≤ 8192 → readBytes s.tb 0 s.len.toNat = none → runCommand rule s = .next (faulted 0x04 s))
    ∧ ∀ l, s.len.toNat ≤ 8192 → readBytes s.tb 0 s.len.toNat = some l → (f l).length ≤ l.length →
      ∃ t, runCommand rule s = .next t ∧ Reduced s t (f l) := by
  refine ⟨fun h => runCommand_of_error (c := .range) hs (hrule.trans (if_pos h)), fun h hu =>
    runCommand_of_error (c := .uninit) hs (hrule.trans (reduceCommand_of_unwritten h hu)), fun l h hl hf => ⟨_,
    runCommand_of_ok hs (hrule.trans (reduceCommand_of_written (s := s.setFlag .done false) h hl hf)), ?_,
    stored_writeBytes s.tb 0 (f l)⟩⟩
  rw [← withFlag_done_done]
  rfl

end Sys2Proof.Machine
end

section
/-! REDRUN (44_neighbour_units.md R220): a pass over the runs of the buffer is a pass over the runs of the original, cut short
so far, and the passes add up. -/

namespace Sys2Proof.Machine

/-! ### Runs written out -/

section ExpandRuns
variable {α : Type}

theorem expandRuns_cons (a : α) (n : Nat) (rs : List (α × Nat)) :
    expandRuns ((a, n) :: rs) = List.replicate n a ++ expandRuns rs := rfl

theorem expandRuns_append (rs rs' : List (α × Nat)) : expandRuns (rs ++ rs') = expandRuns rs ++ expandRuns rs' :=
  List.flatMap_append

theorem runsOf_cons [DecidableEq α] (a : α) (l : List α) : runsOf (a :: l) = pushRun a (runsOf l) := rfl

/-- The first of the maximal runs is of the first element. -/
theorem head?_runsOf [DecidableEq α] (l : List α) : (runsOf l).head?.map Prod.fst = l[0]? := by
  rw [← getElem?_zero_expandRuns (runsOf_maximal l).1, expandRuns_runsOf]

/-- A run in front of a list that does not begin with its element is the first maximal run. -/
theorem runsOf_replicate_append [DecidableEq α] {a : α} {l : List α} (h : l[0]? ≠ some a) (n : Nat) :
    runsOf (List.replicate (n + 1) a ++ l) = (a, n + 1) :: runsOf l := by
  induction n with
  | zero =>
    rw [← head?_runsOf] at h
    rw [List.replicate_one, List.singleton_append, runsOf_cons]
    cases hr : runsOf l with
    | nil => rfl
    | cons x r =>
      have hne : a ≠ x.1 := fun e => h (by simp [hr, e])
      exact if_neg hne
  | succ n ih =>
    rw [List.replicate_succ, List.cons_append, runsOf_cons, ih]
    exact if_pos rfl

/-- Equal neighbours lie in one maximal run. -/
theorem exists_run_of_runAt {rs : List (α × Nat)} (hpos : ∀ x ∈ rs, 0 < x.2) (hchain : rs.IsChain fun x y => x.1 ≠ y.1)
    {b : α} {i n : Nat} (hn : 0 < n) (h : RunAt (expandRuns rs) b i n) : ∃ k, (b, k) ∈ rs ∧ n ≤ k := by
  obtain ⟨hle, hall⟩ := h
  induction rs generalizing i with
  | nil => simp [expandRuns] at hle; omega
  | cons x rs ih =>
    obtain ⟨c, k⟩ := x
    have hpos' : ∀ x ∈ rs, 0 < x.2 := fun x hx => hpos x (List.mem_cons_of_mem _ hx)
    obtain ⟨hhead, hchain'⟩ := List.isChain_cons.1 hchain
    rw [expandRuns_cons] at hle hall
    have later (j : Nat) (hj : k ≤ j) : (List.replicate k c ++ expandRuns rs)[j]? = (expandRuns rs)[j - k]? := by
      simp [List.getElem?_append_right, hj]
    rcases lt_or_ge i k with hik | hik
    · have hcb : c = b := by simpa [List.getElem?_append, hik] using hall i le_rfl (by omega)
      subst hcb
      refine ⟨k, List.mem_cons_self, ?_⟩
      by_contra hlt
      have hk := later k le_rfl ▸ hall k hik.le (by omega)
      rw [Nat.sub_self, getElem?_zero_expandRuns hpos'] at hk
      obtain ⟨y, hy, hyc⟩ := Option.map_eq_some_iff.1 hk
      exact hhead y hy hyc.symm
    · have hlen : i - k + n ≤ (expandRuns rs).length := by
        rw [List.length_append, List.length_replicate] at hle
        omega
      obtain ⟨k', hmem, hk'⟩ := ih hpos' hchain' hlen fun j h1 h2 => by
        simpa [later (j + k) (by omega)] using hall (j + k) (by omega) (by omega)
      exact ⟨k', List.mem_cons_of_mem _ hmem, hk'⟩

/-- The model's maximal runs are the maximal runs. -/
theorem isRuns_runsOf (l : List Byte) : IsRuns (runsOf l) l := by
  obtain ⟨hpos, hchain⟩ := runsOf_maximal l
  refine ⟨(expandRuns_runsOf l).symm, hpos, fun i x y hx hy => ?_⟩
  obtain ⟨hi, rfl⟩ := List.getElem?_eq_some_iff.1 hx
  obtain ⟨hi', rfl⟩ := List.getElem?_eq_some_iff.1 hy
  exact List.isChain_iff_getElem.1 hchain i hi'

end ExpandRuns

/-! ### One pass -/

section Pass
variable {target : Nat} {b : Byte} {m len0 : Nat} {rs : List (Byte × Nat)} {k : Nat}

theorem redrunPass_cons_of_kept {c : Byte} {n : Nat} (h : ¬ (c = b ∧ m < n ∧ target < len0 - k)) :
    redrunPass target b m len0 ((c, n) :: rs) k =
      (List.replicate n c ++ (redrunPass target b m len0 rs k).1, (redrunPass target b m len0 rs k).2) := if_neg h

theorem redrunPass_cons_of_stripped {n : Nat} (h : m < n ∧ target < len0 - k) :
    redrunPass target b m len0 ((b, n) :: rs) k =
      (List.replicate (n - 1) b ++ (redrunPass target b m len0 rs (k + 1)).1,
        (redrunPass target b m len0 rs (k + 1)).2) := if_pos ⟨rfl, h⟩

/-- A byte other than RUNBYTE passes, whatever run it belongs to. -/
theorem redrunPass_pushRun {c : Byte} (h : c ≠ b) :
    redrunPass target b m len0 (pushRun c rs) k =
      (c :: (redrunPass target b m len0 rs k).1, (redrunPass target b m len0 rs k).2) := by
  cases rs with
  | nil => exact redrunPass_cons_of_kept fun hc => h hc.1
  | cons x rs =>
    obtain ⟨d, n⟩ := x
    by_cases hd : c = d
    · subst hd
      rw [pushRun, if_pos rfl, redrunPass_cons_of_kept fun hc => h hc.1, redrunPass_cons_of_kept fun hc => h hc.1,
        List.replicate_succ, List.cons_append]
    · rw [pushRun, if_neg hd, redrunPass_cons_of_kept fun hc => h hc.1]
      rfl

/-- Runs of RUNBYTE are apart: a list of runs whose neighbours differ and of which only runs of `b` may be empty. -/
def RunsApart (b : Byte) (rs : List (Byte × Nat)) : Prop :=
  rs.IsChain (fun x y => x.1 ≠ y.1) ∧ ∀ x ∈ rs, x.1 ≠ b → 0 < x.2

/-- A pass sees the runs of RUNBYTE only: cut runs that are empty, and runs that come together over an empty one, change
nothing. -/
theorem redrunPass_runsOf_expandRuns (h : RunsApart b rs) :
    redrunPass target b m len0 (runsOf (expandRuns rs)) k = redrunPass target b m len0 rs k := by
  induction rs generalizing k with
  | nil => rfl
  | cons x rs ih =>
    obtain ⟨c, n⟩ := x
    obtain ⟨hchain, hpos⟩ := h
    obtain ⟨hhead, hchain'⟩ := List.isChain_cons.1 hchain
    have ih {k : Nat} := ih (k := k) ⟨hchain', fun x hx => hpos x (List.mem_cons_of_mem _ hx)⟩
    rw [expandRuns_cons]
    by_cases hc : c = b
    · subst hc
      cases n with
      | zero => rw [redrunPass_cons_of_kept (by omega)]; exact ih
      | succ n =>
        have hnext : (expandRuns rs)[0]? ≠ some c := by
          cases rs with
          | nil => simp [expandRuns]
          | cons y rs =>
            have hne : c ≠ y.1 := hhead y rfl
            have hy : 0 < y.2 := hpos y (by simp) hne.symm
            simpa [expandRuns, hy] using hne.symm
        rw [runsOf_replicate_append hnext]
        simp only [redrunPass, ih]
    · rw [redrunPass_cons_of_kept fun h => hc h.1, ← ih]
      clear ih hpos hchain hhead
      induction n with
      | zero => rfl
      | succ n ihn => rw [List.replicate_succ, List.cons_append, runsOf_cons, redrunPass_pushRun hc, ihn]; rfl

/-- Past the target a pass keeps everything. -/
theorem redrunPass_of_reached (h : len0 - k ≤ target) : redrunPass target b m len0 rs k = (expandRuns rs, k) := by
  induction rs with
  | nil => rfl
  | cons x rs ih => rw [redrunPass_cons_of_kept (by omega), ih, expandRuns_cons]

/-- A run after `d` passes: one of RUNBYTE has lost a byte a pass, down to MINRUN (44_neighbour_units.md R220). -/
def cutRun (b : Byte) (m d : Nat) (x : Byte × Nat) : Byte × Nat :=
  (x.1, if x.1 = b then max (min x.2 m) (x.2 - d) else x.2)

theorem cutRun_zero (b : Byte) (m : Nat) (x : Byte × Nat) : cutRun b m 0 x = x :=
  Prod.ext rfl (by simp only [cutRun]; split <;> omega)

theorem cutRun_cutRun (b : Byte) (m d : Nat) (x : Byte × Nat) : cutRun b m 1 (cutRun b m d x) = cutRun b m (d + 1) x :=
  Prod.ext rfl (by simp only [cutRun]; split <;> omega)

/-- Only runs of RUNBYTE longer than MINRUN are cut. -/
theorem cutRun_of_kept {d : Nat} {x : Byte × Nat} (h : ¬ (x.1 = b ∧ m < x.2)) : cutRun b m d x = x := by
  refine Prod.ext rfl (ite_eq_right_iff.2 fun hb => ?_)
  have hle : x.2 ≤ m := Nat.not_lt.1 fun hlt => h ⟨hb, hlt⟩
  omega

theorem RunsApart.map_cutRun (h : RunsApart b rs) (d : Nat) : RunsApart b (rs.map (cutRun b m d)) := by
  refine ⟨(List.isChain_map _).2 h.1, fun x hx hne => ?_⟩
  obtain ⟨y, hy, rfl⟩ := List.mem_map.1 hx
  exact (h.2 y hy hne).trans_eq (if_neg hne).symm

/-- A pass cuts the runs once up to a place, and the rest is kept where the target is reached there
(44_neighbour_units.md R220). -/
theorem exists_redrunPass_eq_cutRun (target : Nat) (b : Byte) (m len0 : Nat) (rs : List (Byte × Nat)) (k : Nat) :
    ∃ xs ys, rs = xs ++ ys ∧ (redrunPass target b m len0 rs k).1 = expandRuns (xs.map (cutRun b m 1) ++ ys)
      ∧ (ys = [] ∨ len0 - (redrunPass target b m len0 rs k).2 ≤ target) := by
  induction rs generalizing k with
  | nil => exact ⟨[], [], rfl, rfl, .inl rfl⟩
  | cons x rs ih =>
    obtain ⟨c, n⟩ := x
    rcases le_or_gt (len0 - k) target with hk | hk
    · exact ⟨[], (c, n) :: rs, rfl, by rw [redrunPass_of_reached hk]; rfl, .inr (by rwa [redrunPass_of_reached hk])⟩
    · by_cases hc : c = b ∧ m < n
      · obtain ⟨rfl, hn⟩ := hc
        obtain ⟨xs, ys, rfl, hpass, hend⟩ := ih (k + 1)
        rw [redrunPass_cons_of_stripped ⟨hn, hk⟩]
        refine ⟨(c, n) :: xs, ys, rfl, ?_, hend⟩
        have hmax : max (min n m) (n - 1) = n - 1 := by omega
        have hcut : cutRun c m 1 (c, n) = (c, n - 1) := by simp [cutRun, hmax]
        rw [hpass, List.map_cons, hcut]
        rfl
      · obtain ⟨xs, ys, rfl, hpass, hend⟩ := ih k
        rw [redrunPass_cons_of_kept fun h => hc ⟨h.1, h.2.1⟩]
        refine ⟨(c, n) :: xs, ys, rfl, ?_, hend⟩
        rw [hpass, List.map_cons, cutRun_of_kept hc]
        rfl

/-- A pass over the target that strips nothing met no run of RUNBYTE longer than MINRUN. -/
theorem le_minrun_of_redrunPass (hk : target < len0 - k) (h : (redrunPass target b m len0 rs k).2 = k) :
    ∀ n, (b, n) ∈ rs → n ≤ m := by
  induction rs with
  | nil => simp
  | cons x rs ih =>
    obtain ⟨c, n⟩ := x
    by_cases hc : c = b ∧ m < n
    · obtain ⟨rfl, hn⟩ := hc
      rw [redrunPass_cons_of_stripped ⟨hn, hk⟩] at h
      obtain ⟨-, hle, -⟩ := redrunPass_spec target c m len0 rs (k + 1)
      simp only at h
      omega
    · rw [redrunPass_cons_of_kept fun h => hc ⟨h.1, h.2.1⟩] at h
      intro n' hmem
      rcases List.mem_cons.1 hmem with e | hmem
      · obtain ⟨rfl, rfl⟩ := Prod.mk.inj e
        exact Nat.not_lt.1 fun hlt => hc ⟨rfl, hlt⟩
      · exact ih h n' hmem

end Pass

theorem isPass_redrunPass (target : Nat) (b : Byte) (m : Nat) :
    IsPass target fun l => redrunPass target b m l.length (runsOf l) 0 where
  sublist l := by
    obtain ⟨h, -⟩ := redrunPass_spec target b m l.length (runsOf l) 0
    rwa [expandRuns_runsOf] at h
  length_add l := by
    obtain ⟨-, -, h, -⟩ := redrunPass_spec target b m l.length (runsOf l) 0
    rwa [expandRuns_runsOf] at h
  le_length l hle := by
    obtain ⟨-, -, hlen, hmin⟩ := redrunPass_spec target b m l.length (runsOf l) 0
    rw [expandRuns_runsOf] at hlen
    have := hmin (by omega)
    omega

/-! ### All passes -/

/-- `l` is what `d` whole passes over the runs `rs` and a last one leave; the last one stopped before `ys`, at the target. -/
def PassesTo (b : Byte) (m target : Nat) (rs : List (Byte × Nat)) (l : List Byte) : Prop :=
  ∃ d xs ys, rs = xs ++ ys ∧ l = expandRuns (xs.map (cutRun b m (d + 1)) ++ ys.map (cutRun b m d))
    ∧ (xs = [] ∨ l.length ≤ target)

theorem passesTo_expandRuns (b : Byte) (m target : Nat) (rs : List (Byte × Nat)) :
    PassesTo b m target rs (expandRuns rs) := by
  refine ⟨0, [], rs, rfl, ?_, .inl rfl⟩
  rw [List.map_nil, List.nil_append, funext (cutRun_zero b m), List.map_id']

/-- A pass over what the passes before left is one pass more over the original runs (44_neighbour_units.md R220). -/
theorem PassesTo.redrunPass_fst {b : Byte} {m target : Nat} {rs : List (Byte × Nat)} {l : List Byte} (hrs : RunsApart b rs)
    (h : PassesTo b m target rs l) (hlt : target < l.length) :
    PassesTo b m target rs (redrunPass target b m l.length (runsOf l) 0).1 := by
  have hcount := (isPass_redrunPass target b m).length_add l
  obtain ⟨d, xs, ys, rfl, hl, hend⟩ := h
  obtain rfl : xs = [] := hend.resolve_right (Nat.not_le.2 hlt)
  rw [List.nil_append] at hrs
  have hpass : redrunPass target b m l.length (runsOf l) 0
      = redrunPass target b m l.length (ys.map (cutRun b m d)) 0 := by
    rw [← redrunPass_runsOf_expandRuns (hrs.map_cutRun d), show expandRuns (ys.map (cutRun b m d)) = l from hl.symm]
  obtain ⟨xs', ys', hsplit, hcut, hstop⟩ := exists_redrunPass_eq_cutRun target b m l.length (ys.map (cutRun b m d)) 0
  obtain ⟨xs, zs, rfl, rfl, rfl⟩ := List.map_eq_append_iff.1 hsplit
  rw [← hpass] at hcut hstop
  rw [List.map_map, show cutRun b m 1 ∘ cutRun b m d = cutRun b m (d + 1) from funext (cutRun_cutRun b m d)] at hcut
  rcases hstop with hnil | hstop
  · obtain rfl := List.map_eq_nil_iff.1 hnil
    exact ⟨d + 1, [], xs, by simp, by simpa using hcut, .inl rfl⟩
  · exact ⟨d, xs, zs, rfl, hcut, .inr (by omega)⟩

/-- Cutting the runs `xs` once more than the runs `ys` is one operation on every run and its index. -/
theorem map_cutRun_append_map_cutRun (b : Byte) (m d : Nat) (xs ys : List (Byte × Nat)) :
    xs.map (cutRun b m (d + 1)) ++ ys.map (cutRun b m d)
      = (xs ++ ys).zipIdx.map fun x => cutRun b m (if x.2 < xs.length then d + 1 else d) x.1 := by
  have part {k e : Nat} {zs : List (Byte × Nat)}
      (h : ∀ x ∈ zs.zipIdx k, (if x.2 < xs.length then d + 1 else d) = e) :
      (zs.zipIdx k).map (fun x => cutRun b m (if x.2 < xs.length then d + 1 else d) x.1) = zs.map (cutRun b m e) := by
    conv_rhs => rw [← List.zipIdx_map_fst k zs, List.map_map]
    exact List.map_congr_left fun x hx => by rw [h x hx, Function.comp_apply]
  rw [List.zipIdx_append, List.map_append, part (e := d + 1), part (e := d)]
  · exact fun x hx => if_neg (by have := List.le_snd_of_mem_zipIdx hx; omega)
  · exact fun x hx => if_pos (by have := List.snd_lt_of_mem_zipIdx hx; omega)

/-- Bytes other than RUNBYTE are not cut. -/
theorem filter_expandRuns_cutRun (b : Byte) (m d : Nat) (rs : List (Byte × Nat)) :
    (expandRuns (rs.map (cutRun b m d))).filter (fun c => decide (c ≠ b))
      = (expandRuns rs).filter (fun c => decide (c ≠ b)) := by
  rw [expandRuns, expandRuns, List.flatMap_map, List.filter_flatMap, List.filter_flatMap]
  refine List.flatMap_congr fun x _ => ?_
  by_cases hx : x.1 = b <;> simp [cutRun, hx]

/-- What REDRUN leaves (44_neighbour_units.md R220). -/
theorem reduceRuns_spec (l : List Byte) (target : Nat) (b : Byte) (m : Nat) :
    RunsStripped b m target l (reduceRuns l target b m) ∧ (reduceRuns l target b m).Sublist l
      ∧ (reduceRuns l target b m).filter (fun c => decide (c ≠ b)) = l.filter (fun c => decide (c ≠ b)) := by
  obtain ⟨hpos, hchain⟩ := runsOf_maximal l
  have hstart := passesTo_expandRuns b m target (runsOf l)
  rw [expandRuns_runsOf] at hstart
  obtain ⟨⟨d, xs, ys, hrs, hl', -⟩, hsub, hmin, hend⟩ := (isPass_redrunPass target b m).reduceLoop_spec
    (I := PassesTo b m target (runsOf l)) (fun l' h hlt _ => h.redrunPass_fst ⟨hchain, fun x hx _ => hpos x hx⟩ hlt)
    le_rfl hstart
  rw [← reduceRuns] at hl' hsub hmin hend
  refine ⟨⟨⟨runsOf l, d, xs.length, isRuns_runsOf l, ?_⟩, hmin, fun hlt i n hrun => ?_⟩, hsub, ?_⟩
  · rw [hl', hrs, map_cutRun_append_map_cutRun, expandRuns, List.flatMap_map]
    rfl
  · rcases Nat.eq_zero_or_pos n with rfl | hn
    · exact Nat.zero_le m
    · obtain ⟨hpos', hchain'⟩ := runsOf_maximal (reduceRuns l target b m)
      obtain ⟨k, hk, hnk⟩ := exists_run_of_runAt hpos' hchain' hn (by rwa [expandRuns_runsOf])
      exact hnk.trans (le_minrun_of_redrunPass (by omega) (hend hlt) k hk)
  · rw [hl', expandRuns_append, List.filter_append, filter_expandRuns_cutRun, filter_expandRuns_cutRun,
      ← List.filter_append, ← expandRuns_append, ← hrs, expandRuns_runsOf]

/-- Settles O40: a reducer command (`runCommand_reduceCommand`) with the passes of REDRUN (`reduceRuns_spec`). -/
theorem redrunStripsRunsToTheTarget : Obligations.RedrunStripsRunsToTheTarget := by
  intro s hs
  obtain ⟨hout, hunwritten, hwritten⟩ := runCommand_reduceCommand (rule := ruleRedrun)
    (f := fun l => reduceRuns l s.target.toNat s.runbyte s.minrun.toNat) rfl hs
  refine ⟨hout, hunwritten, fun l h hl => ?_⟩
  obtain ⟨hstripped, hsub, hkept⟩ := reduceRuns_spec l s.target.toNat s.runbyte s.minrun.toNat
  obtain ⟨t, ht, hreduced⟩ := hwritten l h hl hsub.length_le
  exact ⟨t, _, ht, hreduced, hstripped, hsub, hkept⟩

end Sys2Proof.Machine
end

section
/-! REDGAP and REDUCE (44_neighbour_units.md R221, R222): a pass of REDGAP drops the leftmost places that stand before two
0xFF, and REDUCE runs the three reducers and cuts the tail. -/

namespace Sys2Proof.Machine

/-! ### The places of a pass -/

/-- The list without the elements at the indices `ps`. -/
def dropPlaces (ps : List Nat) (l : List Byte) : List Byte := (l.zipIdx.filter fun x => x.2 ∉ ps).map Prod.fst

/-- The first byte of `a :: l` is no 0xFF and stands before two 0xFF (44_neighbour_units.md R221). -/
def BeforeSync (a : Byte) (l : List Byte) : Prop := a ≠ syncByte ∧ l[0]? = some syncByte ∧ l[1]? = some syncByte

theorem gapPlaces_cons_of_beforeSync {a : Byte} {l : List Byte} (h : BeforeSync a l) :
    gapPlaces (a :: l) = 0 :: (gapPlaces l).map (· + 1) := by
  obtain ⟨ha, h0, h1⟩ := h
  rw [gapPlaces, List.length_cons, List.range_succ_eq_map, List.filter_cons_of_pos (by simpa [h0, h1] using ha),
    List.filter_map]
  rfl

theorem gapPlaces_cons_of_not_beforeSync {a : Byte} {l : List Byte} (h : ¬ BeforeSync a l) :
    gapPlaces (a :: l) = (gapPlaces l).map (· + 1) := by
  rw [gapPlaces, List.length_cons, List.range_succ_eq_map, List.filter_cons_of_neg (by simpa [BeforeSync] using h),
    List.filter_map]
  rfl

theorem dropPlaces_cons (ps : List Nat) (a : Byte) (l : List Byte) :
    dropPlaces (ps.map (· + 1)) (a :: l) = a :: dropPlaces ps l := by
  rw [dropPlaces, List.zipIdx_cons', List.filter_cons_of_pos (by simp), List.filter_map, List.map_cons, List.map_map]
  simp [dropPlaces, Function.comp_def, List.forall_mem_ne']

theorem dropPlaces_cons_of_first (ps : List Nat) (a : Byte) (l : List Byte) :
    dropPlaces (0 :: ps.map (· + 1)) (a :: l) = dropPlaces ps l := by
  rw [dropPlaces, List.zipIdx_cons', List.filter_cons_of_neg (by simp), List.filter_map, List.map_map]
  simp [dropPlaces, Function.comp_def, List.forall_mem_ne']

/-! ### One pass -/

section Pass
variable {target len0 : Nat} {a : Byte} {l : List Byte} {k : Nat}

theorem redgapPass_cons_of_dropped (h : BeforeSync a l) (hk : target < len0 - k) :
    redgapPass target len0 (a :: l) k = redgapPass target len0 l (k + 1) := by
  obtain ⟨ha, h0, h1⟩ := h
  match l with
  | [] => simp at h0
  | [b] => simp at h1
  | b :: c :: r => exact if_pos ⟨ha, Option.some.inj h0, Option.some.inj h1, hk⟩

theorem redgapPass_cons_of_kept (h : ¬ (BeforeSync a l ∧ target < len0 - k)) :
    redgapPass target len0 (a :: l) k = (a :: (redgapPass target len0 l k).1, (redgapPass target len0 l k).2) := by
  match l with
  | [] => rfl
  | [b] => rfl
  | b :: c :: r => exact if_neg fun hc => h ⟨⟨hc.1, congrArg some hc.2.1, congrArg some hc.2.2.1⟩, hc.2.2.2⟩

/-- A pass drops the leftmost places before two 0xFF, as many as the target asks for (44_neighbour_units.md R221). -/
theorem redgapPass_eq (target len0 : Nat) (l : List Byte) (k : Nat) :
    redgapPass target len0 l k = (dropPlaces ((gapPlaces l).take (len0 - k - target)) l,
      k + min (len0 - k - target) (gapPlaces l).length) := by
  induction l generalizing k with
  | nil => simp [redgapPass, dropPlaces, gapPlaces]
  | cons a l ih =>
    by_cases h : BeforeSync a l
    · rw [gapPlaces_cons_of_beforeSync h]
      rcases Nat.eq_zero_or_pos (len0 - k - target) with h0 | hpos
      · rw [redgapPass_cons_of_kept (by omega), ih, h0]
        simpa using (dropPlaces_cons [] a l).symm
      · obtain ⟨n, hn⟩ := Nat.exists_eq_add_of_lt hpos
        rw [redgapPass_cons_of_dropped h (by omega), ih, hn, show len0 - (k + 1) - target = n by omega]
        rw [Nat.zero_add, List.take_succ_cons, ← List.map_take, dropPlaces_cons_of_first]
        refine Prod.ext rfl ?_
        simp only [List.length_cons, List.length_map]
        omega
    · rw [gapPlaces_cons_of_not_beforeSync h, redgapPass_cons_of_kept fun hc => h hc.1, ih, ← List.map_take,
        dropPlaces_cons, List.length_map]

/-- No 0xFF is dropped (44_neighbour_units.md R223). -/
theorem count_redgapPass (target len0 : Nat) (l : List Byte) (k : Nat) :
    (redgapPass target len0 l k).1.count syncByte = l.count syncByte := by
  induction l generalizing k with
  | nil => rfl
  | cons a l ih =>
    by_cases h : BeforeSync a l ∧ target < len0 - k
    · rw [redgapPass_cons_of_dropped h.1 h.2, ih, List.count_cons_of_ne h.1.1]
    · rw [redgapPass_cons_of_kept h, List.count_cons, List.count_cons, ih]

end Pass

theorem isPass_redgapPass (target : Nat) : IsPass target fun l => redgapPass target l.length l 0 where
  sublist l := (redgapPass_spec target l.length l 0).1
  length_add l := by
    obtain ⟨-, -, h, -⟩ := redgapPass_spec target l.length l 0
    exact h
  le_length l hle := by
    obtain ⟨-, -, hlen, hmin⟩ := redgapPass_spec target l.length l 0
    have := hmin (by omega)
    omega

/-- A pass over the target that strips nothing found no place. -/
theorem gapPlaces_eq_nil_of_redgapPass {target : Nat} {l : List Byte} (hlt : target < l.length)
    (h : (redgapPass target l.length l 0).2 = 0) : gapPlaces l = [] := by
  rw [redgapPass_eq] at h
  exact List.eq_nil_of_length_eq_zero (by simp only at h; omega)

/-- A pass that strips something is a pass of the rule (44_neighbour_units.md R221). -/
theorem gapPass_redgapPass {target : Nat} {l : List Byte} (hlt : target < l.length)
    (h : (redgapPass target l.length l 0).2 ≠ 0) : GapPass target l (redgapPass target l.length l 0).1 := by
  rw [redgapPass_eq] at h ⊢
  refine ⟨hlt, fun hnil => h (by simp [hnil]), rfl⟩

/-! ### All passes -/

/-- What REDGAP leaves (44_neighbour_units.md R221, R223). -/
theorem reduceGaps_spec (l : List Byte) (target : Nat) :
    GapsStripped target l (reduceGaps l target) ∧ (reduceGaps l target).Sublist l
      ∧ (reduceGaps l target).count syncByte = l.count syncByte ∧ min l.length target ≤ (reduceGaps l target).length := by
  obtain ⟨⟨hpasses, hcount⟩, hsub, hmin, hend⟩ := (isPass_redgapPass target).reduceLoop_spec
    (I := fun l' => Relation.ReflTransGen (GapPass target) l l' ∧ l'.count syncByte = l.count syncByte)
    (fun l' h hlt h0 => ⟨h.1.tail (gapPass_redgapPass hlt h0), (count_redgapPass _ _ _ _).trans h.2⟩)
    le_rfl ⟨.refl, rfl⟩
  exact ⟨⟨hpasses, fun hlt => gapPlaces_eq_nil_of_redgapPass hlt (hend hlt)⟩, hsub, hcount, hmin⟩

/-- Settles O41: a reducer command (`runCommand_reduceCommand`) with the passes of REDGAP (`reduceGaps_spec`). -/
theorem redgapStripsBeforeSyncs : Obligations.RedgapStripsBeforeSyncs := by
  intro s hs
  obtain ⟨hout, hunwritten, hwritten⟩ := runCommand_reduceCommand (rule := ruleRedgap)
    (f := fun l => reduceGaps l s.target.toNat) rfl hs
  refine ⟨hout, hunwritten, fun l h hl => ?_⟩
  obtain ⟨hstripped, hsub, hcount, hmin⟩ := reduceGaps_spec l s.target.toNat
  obtain ⟨t, ht, hreduced⟩ := hwritten l h hl hsub.length_le
  exact ⟨t, _, ht, hreduced, hstripped, hsub, hcount, readBytes_length hl ▸ hmin⟩

/-! ### REDUCE -/

/-- The three reducers leave at least the target, and the cut reaches it (44_neighbour_units.md R222). -/
theorem reduceTrack_spec (l : List Byte) (target m : Nat) :
    (reduceTrack l target m).Sublist l ∧ (reduceTrack l target m).length = min l.length target := by
  obtain ⟨⟨-, hmin1, -⟩, hsub1, -⟩ := reduceRuns_spec l target 0xFF m
  obtain ⟨⟨-, hmin2, -⟩, hsub2, -⟩ := reduceRuns_spec (reduceRuns l target 0xFF m) target 0x00 m
  obtain ⟨-, hsub3, -, hmin3⟩ := reduceGaps_spec (reduceRuns (reduceRuns l target 0xFF m) target 0x00 m) target
  have hsub := hsub3.trans (hsub2.trans hsub1)
  have hle := hsub.length_le
  refine ⟨(List.take_sublist _ _).trans hsub, ?_⟩
  rw [reduceTrack, List.length_take]
  omega

/-- Settles O42: a reducer command (`runCommand_reduceCommand`) with the specifications of the three reducers; the cut
reaches the target (`reduceTrack_spec`). -/
theorem reduceReachesTheTarget : Obligations.ReduceReachesTheTarget := by
  intro s hs
  obtain ⟨hout, hunwritten, hwritten⟩ := runCommand_reduceCommand (rule := ruleReduce)
    (f := fun l => reduceTrack l s.target.toNat s.minrun.toNat) rfl hs
  refine ⟨hout, hunwritten, fun l h hl => ?_⟩
  obtain ⟨hsub, hlen⟩ := reduceTrack_spec l s.target.toNat s.minrun.toNat
  obtain ⟨t, ht, hreduced⟩ := hwritten l h hl hsub.length_le
  refine ⟨t, _, _, _, ht, hreduced, (reduceRuns_spec _ _ _ _).1, (reduceRuns_spec _ _ _ _).1, (reduceGaps_spec _ _).1,
    hsub, ?_⟩
  have htlen : t.len = BitVec.ofNat 16 (reduceTrack l s.target.toNat s.minrun.toNat).length := by rw [hreduced.1]
  have hs16 := s.len.isLt
  rw [htlen, BitVec.toNat_ofNat, hlen, readBytes_length hl]
  exact Nat.mod_eq_of_lt (by omega)

end Sys2Proof.Machine
end

section
/-! GAP and SECTOR0 (44_neighbour_units.md R215, R216): the loops visit the syncs and the header marks in their order, and the
start of a sync's 0xFF run is the least index before its end. -/

namespace Sys2Proof.Machine

/-! ### The start of a run of 0xFF -/

theorem ffRunStart_zero (W : List Byte) : ffRunStart W 0 = 0 := rfl

/-- One byte further, the run goes on or starts again. -/
theorem ffRunStart_succ {W : List Byte} {q : Nat} (h : q < W.length) :
    ffRunStart W (q + 1) = if W[q]? = some syncByte then ffRunStart W q else q + 1 := by
  rw [ffRunStart, List.take_add_one, List.getElem?_eq_getElem h, Option.toList_some, List.reverse_append,
    List.reverse_singleton, List.singleton_append, List.takeWhile_cons]
  by_cases hff : W[q] = syncByte
  · simp [ffRunStart, hff]
  · rw [if_neg (by simpa using hff), if_neg (by simpa using hff)]
    rfl

/-- The bytes from `r` up to `q` are 0xFF exactly where `r` is not before the start of the run. -/
theorem runAt_iff_ffRunStart_le {W : List Byte} {r q : Nat} (hr : r ≤ q) (hq : q ≤ W.length) :
    RunAt W syncByte r (q - r) ↔ ffRunStart W q ≤ r := by
  induction q with
  | zero => exact ⟨fun _ => ffRunStart_zero W ▸ Nat.zero_le r, fun _ => ⟨by omega, fun k _ _ => by omega⟩⟩
  | succ q ih =>
    rw [ffRunStart_succ hq]
    rcases hr.eq_or_lt with rfl | hlt
    · refine iff_of_true ⟨by omega, fun k _ _ => by omega⟩ ?_
      split
      · exact (Nat.sub_le _ _).trans (Nat.le_succ q)
      · exact le_rfl
    · have ih := ih (Nat.lt_succ_iff.1 hlt) (by omega)
      split
      next hff =>
        rw [← ih]
        refine ⟨fun h => ⟨by omega, fun k h1 h2 => h.2 k h1 (by omega)⟩, fun h => ⟨by omega, fun k h1 h2 => ?_⟩⟩
        rcases Nat.lt_or_ge k q with hk | hk
        · exact h.2 k h1 (by omega)
        · rwa [show k = q by omega]
      next hff => exact iff_of_false (fun h => hff (h.2 q (by omega) (by omega))) (by omega)

/-- The start of the run, not before `lo`, is the least one (44_neighbour_units.md R215). -/
theorem leastSyncStart_ffRunStart {W : List Byte} {lo q : Nat} (hlo : lo ≤ q) (hq : q ≤ W.length) :
    LeastSyncStart W lo q (max lo (ffRunStart W q)) := by
  have hstart : max lo (ffRunStart W q) ≤ q := max_le hlo (Nat.sub_le _ _)
  refine ⟨le_max_left _ _, hstart, (runAt_iff_ffRunStart_le hstart hq).2 (le_max_right _ _), fun r h1 h2 hr => ?_⟩
  have := (runAt_iff_ffRunStart_le (h2.le.trans hstart) hq).1 hr
  omega

theorem LeastSyncStart.unique {W : List Byte} {lo q rs rs' : Nat} (h : LeastSyncStart W lo q rs)
    (h' : LeastSyncStart W lo q rs') : rs = rs' := by
  obtain ⟨hlo, -, hrun, hleast⟩ := h
  obtain ⟨hlo', -, hrun', hleast'⟩ := h'
  exact Nat.le_antisymm (Nat.not_lt.1 fun hlt => hleast rs' hlo' hlt hrun') (Nat.not_lt.1 fun hlt => hleast' rs hlo hlt hrun)

/-! ### Cursors -/

/-- The cursor `p` cuts no later sync of `W`: each is still seen from `p` on. -/
def CutsNoSync (W : List Byte) (p : Nat) : Prop := ∀ k, p < k → SyncEnd W k → SyncEnd (W.drop p) (k - p)

theorem SyncEnd.pos {l : List Byte} {q : Nat} (h : SyncEnd l q) : 0 < q := by
  obtain ⟨i, hi, -⟩ := h
  omega

/-- Before a sync's end stands a 0xFF (41_bitstream_scanner.md R141). -/
theorem SyncEnd.getD_before {l : List Byte} {q : Nat} (h : SyncEnd l (q + 1)) : l.getD q 0 = syncByte := by
  obtain ⟨i, hi, -, -, hrun, -⟩ := h
  exact hrun q (by omega) (by omega)

theorem cutsNoSync_zero (W : List Byte) : CutsNoSync W 0 := fun _ _ h => h

theorem SyncEnd.cutsNoSync {W : List Byte} {p : Nat} (h : SyncEnd W p) : CutsNoSync W p :=
  fun _ hk hs => hs.drop h.getD_ne hk

/-- No sync begins at a header mark, whose last bit is 0. -/
theorem cutsNoSync_of_hdrMark {W : List Byte} {q : Nat} (h : W[q]? = some hdrMark) : CutsNoSync W (q + 1) := by
  intro k hk hs
  obtain ⟨hq, he⟩ := List.getElem?_eq_some_iff.1 h
  have hne : W.getD q 0 ≠ syncByte := by
    rw [List.getD_eq_getElem?_getD, h]
    decide
  have hdrop := hs.drop hne (by omega)
  rw [List.drop_eq_getElem_cons hq, he, show k - q = (k - (q + 1)) + 1 by omega] at hdrop
  exact (syncEnd_cons.1 hdrop).resolve_left fun hc => absurd hc.1 (by decide)

section Cursor
variable {W : List Byte} {p : Nat}

theorem CutsNoSync.syncEnd_drop_iff (hp : CutsNoSync W p) {k : Nat} : SyncEnd (W.drop p) k ↔ 0 < k ∧ SyncEnd W (p + k) :=
  ⟨fun h => ⟨h.pos, h.of_drop⟩, fun ⟨h0, h⟩ => by simpa using hp (p + k) (by omega) h⟩

theorem CutsNoSync.markAt_drop_iff (hp : CutsNoSync W p) {k : Nat} : MarkAt (W.drop p) k ↔ 0 < k ∧ MarkAt W (p + k) := by
  rw [MarkAt, MarkAt, hp.syncEnd_drop_iff, and_assoc]
  simp [List.getD_eq_getElem?_getD]

/-- `q` is the first place of `P` after `p`. -/
def FirstAfter (P : Nat → Prop) (p q : Nat) : Prop := p < q ∧ P q ∧ ∀ k, p < k → k < q → ¬ P k

theorem FirstAfter.unique {P : Nat → Prop} {q q' : Nat} (h : FirstAfter P p q) (h' : FirstAfter P p q') : q = q' :=
  Nat.le_antisymm (Nat.not_lt.1 fun hlt => h.2.2 q' h'.1 hlt h'.2.1) (Nat.not_lt.1 fun hlt => h'.2.2 q h.1 hlt h.2.1)

/-- A place relative to the cursor is the first after it. -/
theorem firstAfter_of_relative {P Q : Nat → Prop} (hPQ : ∀ k, Q k ↔ 0 < k ∧ P (p + k)) {q : Nat} (hq : Q q)
    (hfirst : ∀ k < q, ¬ Q k) : FirstAfter P p (p + q) := by
  obtain ⟨hpos, hP⟩ := (hPQ q).1 hq
  refine ⟨by omega, hP, fun k h1 h2 hk => hfirst (k - p) (by omega) ((hPQ _).2 ⟨by omega, ?_⟩)⟩
  rwa [Nat.add_sub_of_le h1.le]

theorem nowhere_after_of_relative {P Q : Nat → Prop} (hPQ : ∀ k, Q k ↔ 0 < k ∧ P (p + k)) (hno : ∀ k, ¬ Q k) {q : Nat}
    (hq : p < q) : ¬ P q := fun h => hno (q - p) ((hPQ _).2 ⟨by omega, by rwa [Nat.add_sub_of_le hq.le]⟩)

/-- FSYNC over the rest of `W` answers the next sync end of `W` (41_bitstream_scanner.md R141). -/
theorem CutsNoSync.firstAfter_of_fsync (hp : CutsNoSync W p) {a : Nat} (h : fsync W p W.length = some a) :
    FirstAfter (SyncEnd W) p a := by
  obtain ⟨q, rfl, -⟩ := syncEnd_of_fsync h
  rw [fsync_eq_some_iff, List.take_length] at h
  exact firstAfter_of_relative (fun _ => hp.syncEnd_drop_iff) h.1 h.2

theorem CutsNoSync.not_syncEnd_of_fsync (hp : CutsNoSync W p) (h : fsync W p W.length = none) {q : Nat} (hq : p < q) :
    ¬ SyncEnd W q := by
  rw [fsync_eq_none_iff, List.take_length] at h
  exact nowhere_after_of_relative (fun _ => hp.syncEnd_drop_iff) h hq

/-- FHDR over the rest of `W` answers the position past the next header mark of `W` (41_bitstream_scanner.md R144). -/
theorem CutsNoSync.firstAfter_of_fhdr (hp : CutsNoSync W p) {h : Nat} (he : fhdr W p W.length = some h) :
    ∃ q, h = q + 1 ∧ FirstAfter (MarkAt W) p q := by
  obtain ⟨q, rfl, -⟩ := markAt_of_fhdr he
  rw [fhdr_eq_some_iff, List.take_length] at he
  exact ⟨p + q, rfl, firstAfter_of_relative (fun _ => hp.markAt_drop_iff) he.1 he.2⟩

theorem CutsNoSync.not_markAt_of_fhdr (hp : CutsNoSync W p) (h : fhdr W p W.length = none) {q : Nat} (hq : p < q) :
    ¬ MarkAt W q := by
  rw [fhdr_eq_none_iff, List.take_length] at h
  exact nowhere_after_of_relative (fun _ => hp.markAt_drop_iff) h hq

end Cursor

/-! ### GAP -/

/-- `g` is the span of two successive syncs that begins at `p` and its rotation point, and no span that begins before `n` is
longer or as long and earlier (44_neighbour_units.md R215). -/
def LongestGap (W : List Byte) (L n p : Nat) (g : Nat × Nat) : Prop :=
  ∃ a rs, GapSpan W L p a ∧ LeastSyncStart W p a rs ∧ g = (a - p, min (p + dataGcrLen) rs)
    ∧ ∀ p' a', p' < n → GapSpan W L p' a' → a' - p' ≤ g.1 ∧ (a' - p' = g.1 → p ≤ p')

/-- `best` is GAP's answer over the spans that begin before `n`. -/
def BestGap (W : List Byte) (L n : Nat) : Option (Nat × Nat) → Prop
  | none => ∀ p a, p < n → ¬ GapSpan W L p a
  | some g => ∃ p < n, LongestGap W L n p g

section Gap
variable {W : List Byte} {L : Nat}

theorem GapSpan.lt_length {p a : Nat} (h : GapSpan W L p a) : p < W.length := SyncEnd.lt_length h.1

/-- A span ends at the first sync end after its beginning. -/
theorem GapSpan.unique {p a a' : Nat} (h : GapSpan W L p a) (h' : GapSpan W L p a') : a = a' := by
  obtain ⟨-, ha, hlt, -, hbetween⟩ := h
  obtain ⟨-, ha', hlt', -, hbetween'⟩ := h'
  exact FirstAfter.unique ⟨hlt, ha, hbetween⟩ ⟨hlt', ha', hbetween'⟩

/-- Where no span begins from `n` on up to `n'`, the answer stays. -/
theorem BestGap.extend {n n' : Nat} {best : Option (Nat × Nat)} (h : BestGap W L n best) (hle : n ≤ n')
    (hno : ∀ p a, n ≤ p → p < n' → ¬ GapSpan W L p a) : BestGap W L n' best := by
  cases best with
  | none =>
    intro p a hp hs
    rcases Nat.lt_or_ge p n with hlt | hge
    · exact h p a hlt hs
    · exact hno p a hge hp hs
  | some g =>
    obtain ⟨p, hp, a, rs, hspan, hstart, hg, hmax⟩ := h
    refine ⟨p, hp.trans_le hle, a, rs, hspan, hstart, hg, fun p' a' hp' hs => hmax p' a' ?_ hs⟩
    exact Nat.not_le.1 fun hge => hno p' a' hge hp' hs

/-- The span from `p` is compared with the best before it (44_neighbour_units.md R215). -/
theorem BestGap.betterGap {p a : Nat} {best : Option (Nat × Nat)} (h : BestGap W L p best) (hspan : GapSpan W L p a) :
    BestGap W L (p + 1) (betterGap W best p a) := by
  obtain ⟨-, ha, hpa, -, -⟩ := id hspan
  have hstart := leastSyncStart_ffRunStart hpa.le ha.lt_length.le
  have hnew (hold : ∀ p' a', p' < p → GapSpan W L p' a' → a' - p' < a - p) :
      BestGap W L (p + 1) (some (a - p, min (p + dataGcrLen) (max p (ffRunStart W a)))) := by
    refine ⟨p, by omega, a, _, hspan, hstart, rfl, fun p' a' hp' hs => ?_⟩
    rcases Nat.lt_or_ge p' p with hlt | hge
    · have := hold p' a' hlt hs
      simp only
      omega
    · obtain rfl : p' = p := by omega
      rw [hs.unique hspan]
      exact ⟨le_rfl, fun _ => le_rfl⟩
  cases best with
  | none => exact hnew fun p' a' hlt hs => absurd hs (h p' a' hlt)
  | some g =>
    obtain ⟨p₀, hp₀, a₀, rs, hspan₀, hstart₀, hg, hmax⟩ := h
    simp only [Machine.betterGap]
    split_ifs with hlt
    · exact hnew fun p' a' hp' hs => (hmax p' a' hp' hs).1.trans_lt hlt
    · refine ⟨p₀, by omega, a₀, rs, hspan₀, hstart₀, hg, fun p' a' hp' hs => ?_⟩
      rcases Nat.lt_or_ge p' p with hlt' | hge
      · exact hmax p' a' hlt' hs
      · obtain rfl : p' = p := by omega
        rw [hs.unique hspan]
        omega

/-- From the end `p` of a sync on the loop completes the answer (44_neighbour_units.md R215). -/
theorem bestGap_gapLoop {fuel p : Nat} {best : Option (Nat × Nat)} (hfuel : W.length ≤ fuel + p) (hp : SyncEnd W p)
    (h : BestGap W L p best) : BestGap W L W.length (gapLoop W L fuel best (some p) p) := by
  induction fuel generalizing p best with
  | zero => exact absurd hp.lt_length (by omega)
  | succ fuel ih =>
    rw [gapLoop]
    split
    next hnone =>
      refine h.extend hp.lt_length.le fun p' a hle _ hs => ?_
      obtain ⟨-, ha, hlt, -⟩ := hs
      exact hp.cutsNoSync.not_syncEnd_of_fsync hnone (by omega) ha
    next a hsome =>
      obtain ⟨hpa, ha, hbetween⟩ := hp.cutsNoSync.firstAfter_of_fsync hsome
      refine ih (by omega) ha ?_
      have hskip : ∀ p' a', p + 1 ≤ p' → p' < a → ¬ GapSpan W L p' a' := fun p' a' h1 h2 hs => hbetween p' h1 h2 hs.1
      simp only
      split_ifs with hL
      · exact (h.betterGap ⟨hp, ha, hpa, hL, hbetween⟩).extend hpa hskip
      · refine h.extend hpa.le fun p' a' h1 h2 hs => ?_
        obtain ⟨-, -, -, hL', -⟩ := id hs
        exact hskip p' a' (by omega) h2 hs

/-- GAP answers the first longest span (44_neighbour_units.md R215). -/
theorem bestGap_gapSearch (W : List Byte) (L : Nat) : BestGap W L W.length (gapSearch W L) := by
  have hnone {n : Nat} (h : ∀ q < n, ¬ SyncEnd W q) : BestGap W L n none := fun p a hp hs => h p hp hs.1
  rw [gapSearch]
  cases hn : W.length with
  | zero => exact hnone fun q hq => by omega
  | succ n =>
    rw [gapLoop, hn]
    split
    next h0 =>
      rw [← hn] at h0
      exact hnone fun q _ hq => (cutsNoSync_zero W).not_syncEnd_of_fsync h0 hq.pos hq
    next a ha =>
      rw [← hn] at ha ⊢
      obtain ⟨hpos, hend, hfirst⟩ := (cutsNoSync_zero W).firstAfter_of_fsync ha
      exact bestGap_gapLoop (by omega) hend (hnone fun q hq hs => hfirst q hs.pos hq hs)

/-- The first longest span is one. -/
theorem LongestGap.unique {n p p' : Nat} {g g' : Nat × Nat} (hp : p < n) (hp' : p' < n) (h : LongestGap W L n p g)
    (h' : LongestGap W L n p' g') : g = g' := by
  obtain ⟨a, rs, hspan, hstart, rfl, hmax⟩ := h
  obtain ⟨a', rs', hspan', hstart', rfl, hmax'⟩ := h'
  have h1 := hmax p' a' hp' hspan'
  have h2 := hmax' p a hp hspan
  simp only at h1 h2
  obtain rfl : p = p' := by omega
  obtain rfl := hspan.unique hspan'
  rw [hstart.unique hstart']

end Gap

/-- Settles O58: GAP's answer is the best of all spans (`bestGap_gapSearch`), and the first longest span is one. -/
theorem gapIsTheFirstLongestSpan : Obligations.GapIsTheFirstLongestSpan := by
  intro W L
  have hbest := bestGap_gapSearch W L
  refine ⟨fun span o => ⟨fun h => ?_, ?_⟩, ⟨fun h => ?_, fun h => ?_⟩⟩
  · rw [h] at hbest
    obtain ⟨p, -, a, rs, hspan, hstart, hg, hmax⟩ := hbest
    obtain ⟨rfl, rfl⟩ := Prod.mk.inj hg
    exact ⟨p, a, rs, hspan, rfl, hstart, rfl, fun p' a' hs => hmax p' a' hs.lt_length hs⟩
  · rintro ⟨p, a, rs, hspan, rfl, hstart, rfl, hmax⟩
    cases hg : gapSearch W L with
    | none =>
      rw [hg] at hbest
      exact absurd hspan (hbest p a hspan.lt_length)
    | some g =>
      rw [hg] at hbest
      obtain ⟨p', hp', hlong⟩ := hbest
      exact congrArg some (hlong.unique hp' hspan.lt_length ⟨a, rs, hspan, hstart, rfl, fun p' a' _ => hmax p' a'⟩)
  · rw [h] at hbest
    exact fun p a hs => hbest p a hs.lt_length hs
  · cases hg : gapSearch W L with
    | none => rfl
    | some g =>
      rw [hg] at hbest
      obtain ⟨p, -, a, -, hspan, -⟩ := hbest
      exact absurd hspan (h p a)

/-! ### SECTOR0 -/

/-- The answer of SECTOR0 from the cursor `p` on (44_neighbour_units.md R216). -/
def Sector0Answer (W : List Byte) (L p : Nat) : Option Nat → Prop
  | none => ∀ q, p < q → ¬ Sector0At W L q
  | some rs => ∃ q, FirstAfter (Sector0At W L) p q ∧ rs = ffRunStart W q

section Sector0
variable {W : List Byte} {L : Nat}

theorem Sector0At.markAt {q : Nat} (h : Sector0At W L q) : MarkAt W q :=
  ⟨h.1, by rw [List.getD_eq_getElem?_getD, h.2.1]; rfl⟩

theorem MarkAt.getElem?_eq {q : Nat} (h : MarkAt W q) : W[q]? = some hdrMark := by
  have hlt := h.1.lt_length
  have hq := h.2
  rw [List.getD_eq_getElem?_getD, List.getElem?_eq_getElem hlt] at hq
  rw [List.getElem?_eq_getElem hlt]
  exact congrArg some hq

/-- The tests of SECTOR0 at a header mark, in the default layout (44_neighbour_units.md R216). -/
theorem sector0At_iff_of_markAt {q : Nat} (h : MarkAt W q) :
    Sector0At W L q ↔ q < L ∧ q + 5 ≤ W.length
      ∧ headerGet params (decBytes params ((W.drop q).take 5)) .headerId = params.hdrId
      ∧ headerGet params (decBytes params ((W.drop q).take 5)) .sector = 0x00 :=
  ⟨fun ⟨_, _, hL, hlen, _, hP, hid, hsec⟩ => ⟨hL, hlen, hP ▸ hid, hP ▸ hsec⟩,
    fun ⟨hL, hlen, hid, hsec⟩ => ⟨h.1, h.getElem?_eq, hL, hlen, _, rfl, hid, hsec⟩⟩

/-- A header mark that is no sector-0 header is passed. -/
theorem Sector0Answer.of_not {p q : Nat} {x : Option Nat} (hfirst : FirstAfter (MarkAt W) p q)
    (hq : ¬ Sector0At W L q) (h : Sector0Answer W L (q + 1) x) : Sector0Answer W L p x := by
  obtain ⟨hpq, hmark, hbetween⟩ := hfirst
  have hno : ∀ k, p < k → k ≤ q + 1 → ¬ Sector0At W L k := fun k h1 h2 hk => by
    rcases Nat.lt_trichotomy k q with hlt | rfl | hgt
    · exact hbetween k h1 hlt hk.markAt
    · exact hq hk
    · obtain rfl : k = q + 1 := by omega
      exact absurd (hk.1.getD_before.symm.trans hmark.2) (by decide)
  cases x with
  | none =>
    intro k hk hs
    rcases Nat.lt_or_ge (q + 1) k with hlt | hle
    · exact h k hlt hs
    · exact hno k hk hle hs
  | some rs =>
    obtain ⟨r, ⟨hr, hat, hfirst⟩, rfl⟩ := h
    refine ⟨r, ⟨by omega, hat, fun k h1 h2 hs => ?_⟩, rfl⟩
    rcases Nat.lt_or_ge (q + 1) k with hlt | hle
    · exact hfirst k hlt h2 hs
    · exact hno k h1 hle hs

/-- From a cursor on the loop answers the first sector-0 header (44_neighbour_units.md R216). -/
theorem sector0Answer_sector0Loop {fuel p : Nat} (hfuel : W.length ≤ fuel + p) (hp : CutsNoSync W p) :
    Sector0Answer W L p (sector0Loop params W L fuel p) := by
  induction fuel generalizing p with
  | zero => exact fun q hq hs => absurd hs.1.lt_length (by omega)
  | succ fuel ih =>
    rw [sector0Loop]
    split
    next hnone => exact fun q hq hs => hp.not_markAt_of_fhdr hnone hq hs.markAt
    next h hsome =>
      obtain ⟨q, rfl, hfirst⟩ := hp.firstAfter_of_fhdr hsome
      have hat := sector0At_iff_of_markAt (L := L) hfirst.2.1
      simp only [Nat.add_sub_cancel]
      split_ifs with hL htest
      · refine fun k hk hs => ?_
        obtain ⟨-, -, hkL, -⟩ := id hs
        exact hfirst.2.2 k hk (by omega) hs.markAt
      · exact ⟨q, ⟨hfirst.1, hat.2 ⟨Nat.not_le.1 hL, htest⟩, fun k h1 h2 hs => hfirst.2.2 k h1 h2 hs.markAt⟩, rfl⟩
      · exact .of_not hfirst (fun hs => htest (hat.1 hs).2)
          (ih (by have := hfirst.1; omega) (cutsNoSync_of_hdrMark hfirst.2.1.getElem?_eq))

end Sector0

/-- Settles O59: SECTOR0 answers the first header (`sector0Answer_sector0Loop`) and the start of its 0xFF run
(`leastSyncStart_ffRunStart`). -/
theorem sector0IsTheFirstHeader : Obligations.Sector0IsTheFirstHeader := by
  intro W L
  have hanswer : Sector0Answer W L 0 (sector0Search params W L) :=
    sector0Answer_sector0Loop le_rfl (cutsNoSync_zero W)
  have hstart {q : Nat} (h : Sector0At W L q) : LeastSyncStart W 0 q (ffRunStart W q) := by
    simpa using leastSyncStart_ffRunStart (Nat.zero_le q) h.1.lt_length.le
  refine ⟨fun rs => ⟨fun h => ?_, ?_⟩, ⟨fun h q hs => ?_, fun h => ?_⟩⟩
  · rw [h] at hanswer
    obtain ⟨q, ⟨-, hat, hfirst⟩, rfl⟩ := hanswer
    exact ⟨q, hat, fun q' hlt hs => hfirst q' hs.1.pos hlt hs, hstart hat⟩
  · rintro ⟨q, hat, hfirst, hrs⟩
    cases hx : sector0Search params W L with
    | none =>
      rw [hx] at hanswer
      exact absurd hat (hanswer q hat.1.pos)
    | some r =>
      rw [hx] at hanswer
      obtain ⟨q', hq', rfl⟩ := hanswer
      obtain rfl := hq'.unique ⟨hat.1.pos, hat, fun k _ => hfirst k⟩
      exact congrArg some ((hstart hat).unique hrs)
  · rw [h] at hanswer
    exact hanswer q hs.1.pos hs
  · cases hx : sector0Search params W L with
    | none => rfl
    | some r =>
      rw [hx] at hanswer
      obtain ⟨q, ⟨-, hat, -⟩, -⟩ := hanswer
      exact absurd hat (h q)

end Sys2Proof.Machine
end

section
/-! ALIGNSEL on a written window (44_neighbour_units.md R213, R214): the rotation under any parameters, and the protection
matchers in the automatic order and forced. -/

namespace Sys2Proof.Machine

/-! ### The rotation -/

theorem normalOffset_lt (o : Int) {L : Nat} (hL : 0 < L) : normalOffset o L < L := by
  have := Int.emod_lt_of_pos o (Int.natCast_pos.2 hL)
  have := Int.emod_nonneg o (Int.natCast_ne_zero.2 hL.ne')
  rw [normalOffset]
  omega

/-- `o mod L` (44_neighbour_units.md R214). -/
theorem natCast_normalOffset (o : Int) {L : Nat} (hL : 0 < L) : (normalOffset o L : Int) = o % L :=
  Int.toNat_of_nonneg (Int.emod_nonneg o (Int.natCast_ne_zero.2 hL.ne'))

/-- `L` bytes of the doubled cycle from inside its first copy are the cycle rotated (44_neighbour_units.md R214). -/
theorem take_drop_doubled {C : List Byte} {o : Nat} (h : o ≤ C.length) :
    ((C ++ C).drop o).take C.length = C.drop o ++ C.take o := by
  rw [List.drop_append_of_le_length h, List.take_append, List.length_drop, Nat.sub_sub_self h,
    List.take_of_length_le (by rw [List.length_drop]; omega)]

section Alignsel
variable {c : Config} {s : State} {v : Override} (hrange : ¬ (s.cycl = 0 ∨ tbCap < s.cycs.toNat + s.cycl.toNat))
  (hv : overrideOf s.alignovr = some v)
include hrange hv

/-- A forced matcher that is absent (60_exceptions.md R246). -/
theorem ruleAlignsel_of_matcherAbsent (h : matcherAbsent c v = true) : ruleAlignsel c s = .error .unsup := by
  simp only [ruleAlignsel, if_neg hrange, hv, h, if_true]

/-- ALIGNSEL on a written window (44_neighbour_units.md R214). -/
theorem ruleAlignsel_of_written {C : List Byte} {tag : AlignTag} {o : Int} (h : matcherAbsent c v = false)
    (hC : readBytes s.tb s.cycs.toNat s.cycl.toNat = some C) (hsel : selectAlign c (C ++ C) C.length v = (tag, o)) :
    ruleAlignsel c s = .ok { s with
      wb := writeBytes s.wb 0 (C ++ C)
      tb := writeBytes s.tb 0 (((C ++ C).drop (normalOffset o C.length)).take C.length)
      cycs := 0, len := s.cycl, outlen := s.cycl, res := BitVec.ofNat 16 (normalOffset o C.length)
      tag := tagNumber tag } := by
  have hfits : s.cycs.toNat + s.cycl.toNat ≤ tbCap := Nat.not_lt.1 (not_or.1 hrange).2
  have hlen := readBytes_length hC
  simp only [ruleAlignsel, if_neg hrange, hv, h, Bool.false_eq_true, if_false]
  refine bind_ok_iff.2 ⟨C, readWindow_of_written hfits hC, ?_⟩
  rw [← hlen, hsel]
  refine bind_ok_iff.2 ⟨_, memWrite_ok_iff.2 ⟨.inr ?_, rfl⟩, bind_ok_iff.2 ⟨_, memWrite_ok_iff.2 ⟨.inr ?_, rfl⟩, rfl⟩⟩
  · simp only [List.length_append, bufCap, tbCap, wbCap] at hfits ⊢
    omega
  · simp only [List.length_take, bufCap]
    omega

/-- ALIGNSEL on a written window rotates the cycle to the offset of the method that the override runs
(44_neighbour_units.md R214). -/
theorem exists_rotated_of_written {C : List Byte} {tag : AlignTag} {o : Int} (hs : s.flag .fault = false)
    (h : matcherAbsent c v = false) (hC : readBytes s.tb s.cycs.toNat s.cycl.toNat = some C)
    (hsel : selectAlign c (C ++ C) C.length v = (tag, o)) :
    ∃ t, runCommand (ruleAlignsel c) s = .next t ∧ Rotated s t C (tagNumber tag) o := by
  have hlen := readBytes_length hC
  have hpos : 0 < C.length := hlen ▸ Nat.pos_of_ne_zero fun h0 => hrange (.inl (BitVec.eq_of_toNat_eq h0))
  have hlt := normalOffset_lt o hpos
  have hres : (BitVec.ofNat 16 (normalOffset o C.length)).toNat = normalOffset o C.length :=
    Nat.mod_eq_of_lt (by have := s.cycl.isLt; omega)
  refine ⟨_, runCommand_of_ok hs (ruleAlignsel_of_written (s := s.setFlag .done false) hrange hv h hC hsel), ?_, ?_, ?_,
    stored_writeBytes s.wb 0 (C ++ C)⟩
  · rw [← withFlag_done_done]
    rfl
  · exact (congrArg Int.ofNat hres).trans (natCast_normalOffset o hpos)
  · rw [take_drop_doubled hlt.le]
    simpa only [State.setFlag, hres] using stored_writeBytes s.tb 0 _

end Alignsel

/-- The write of ALIGNSEL's opcode to CMD of a block with U5 (30_encoding.md R83). -/
theorem startCommand_alignsel {c : Config} (hc : c.hasU5 = true) (s : State) :
    startCommand c 0x40 s = runCommand (ruleAlignsel c) { s with cmd := 0x40 } := by
  have hdecode : decodeWrite c 0x40 = .ok .alignsel := by
    rw [decodeWrite_of_lt (by decide)]
    exact (decode_encode .alignsel c).trans (if_pos (by rw [WellFormed, hc]; rfl))
  rw [startCommand, hdecode]
  rfl

/-! ### The protection matchers -/

/-- The index of a kind is its place in the order of the kinds (44_neighbour_units.md R213). -/
theorem length_eq_protIndex {ks ks' : List ProtKind} {k : ProtKind} (h : ks ++ k :: ks' = protKinds) :
    ks.length = protIndex k := by
  have hk : protKinds[ks.length]? = some k := by simp [← h]
  have hlt : ks.length < 4 := (List.getElem?_eq_some_iff.1 hk).1
  have key : ∀ i < 4, ∀ k, protKinds[i]? = some k → i = protIndex k := by decide
  exact key _ hlt k hk

/-- The override of a kind's number (30_encoding.md R92). -/
theorem overrideOf_of_toNat {v : Byte} {k : ProtKind} (h : v.toNat = 0x10 + protIndex k) :
    overrideOf v = some (.signature k) := by
  obtain rfl : v = BitVec.ofNat 8 (0x10 + protIndex k) := by rw [← h, BitVec.ofNat_toNat, BitVec.setWidth_eq]
  cases k <;> rfl

/-- The first present matcher that finds an offset wins (44_neighbour_units.md R213, R214). -/
theorem selectAlign_automatic_of_first {c : Config} {W : List Byte} {L : Nat} {ks ks' : List ProtKind} {k : ProtKind}
    {f : List Byte → Nat → Option Int} {o : Int} (hks : ks ++ k :: ks' = protKinds) (hk : c.protMatch k = some f)
    (hf : f W L = some o) (hfirst : ∀ k' ∈ ks, ∀ f', c.protMatch k' = some f' → f' W L = none) :
    selectAlign c W L .automatic = (.signature k, o) := by
  have hfound : firstSignature c W L = some (.signature k, o) := by
    refine List.findSome?_eq_some_iff.2 ⟨ks, k, ks', hks.symm, by simp [protSearch, hk, hf], fun k' hk' => ?_⟩
    rw [Option.map_eq_none_iff]
    exact Option.bind_eq_none_iff.2 fun f' hf' => hfirst k' hk' f' hf'
  simp only [selectAlign, selectAutomatic, hfound]

/-- A forced matcher that is present runs alone (44_neighbour_units.md R211, R213). -/
theorem selectAlign_signature {c : Config} {k : ProtKind} {f : List Byte → Nat → Option Int} (hk : c.protMatch k = some f)
    (W : List Byte) (L : Nat) : selectAlign c W L (.signature k) = forced (.signature k) (f W L) := by
  simp only [selectAlign, protSearch, hk, Option.bind_some]

/-- Settles O60: ALIGNSEL rotates as its method says (`exists_rotated_of_written`), and the methods of the matchers are
`selectAlign_automatic_of_first` and `selectAlign_signature`. -/
theorem presentMatcherWins : Obligations.PresentMatcherWins := by
  refine ⟨fun _ => rfl, fun c s C ks ks' k hc hs hcycl hfits hC hks => ?_⟩
  have hrange : ¬ (s.cycl = 0 ∨ tbCap < s.cycs.toNat + s.cycl.toNat) := not_or.2 ⟨hcycl, Nat.not_lt.2 hfits⟩
  have rotated {v : Override} {tag : AlignTag} {o : Int} (hv : overrideOf s.alignovr = some v) :=
    exists_rotated_of_written (c := c) (s := { s with cmd := 0x40 }) (C := C) (tag := tag) (o := o) hrange hv hs
  rw [startCommand_alignsel hc, length_eq_protIndex hks]
  refine ⟨fun f o hk hovr hf hfirst => ?_, fun f hk hovr => ?_, fun hk hovr => ?_⟩
  · exact rotated (v := .automatic) (by rw [hovr]; rfl) rfl hC (selectAlign_automatic_of_first hks hk hf hfirst)
  · have hpresent : matcherAbsent c (.signature k) = false := by simp [matcherAbsent, hk]
    have htag : tagNumber (.signature k) = s.alignovr := BitVec.eq_of_toNat_eq (by rw [hovr]; cases k <;> rfl)
    have hsel := selectAlign_signature hk (C ++ C) C.length
    refine ⟨fun o hf => ?_, fun hf => ?_⟩
    · rw [hf] at hsel
      exact htag ▸ rotated (overrideOf_of_toNat hovr) hpresent hC hsel
    · rw [hf] at hsel
      exact rotated (overrideOf_of_toNat hovr) hpresent hC hsel
  · exact runCommand_of_error (c := .unsup) hs (ruleAlignsel_of_matcherAbsent
      (s := State.setFlag { s with cmd := 0x40 } .done false) hrange (overrideOf_of_toNat hovr)
      (by simp [matcherAbsent, hk]))

end Sys2Proof.Machine
end

section
/-! The fault mechanism (60_exceptions.md R241, R243): what a command's own rule writes of STATUS, so that FAULT = 1 after a
command is the fault entry alone, and the numbers whose write to CMD is the illegal command. -/

namespace Sys2Proof.Machine

/-! ### STATUS after a rule

The rules write FOUND, BAD and SHIFTED only (10_state.md R29); DONE and FAULT belong to the dispatch. -/

/-- The flag that the rule of a command writes: a search's FOUND, BADGCR's BAD, ISSHIFT's SHIFTED (10_state.md R29). -/
def ruleFlag : Instr → Option Flag
  | .fsync | .fhdr => some .found
  | .badgcr => some .bad
  | .isshift => some .shifted
  | _ => none

theorem ite_error_eq_ok_iff {α : Type} {p : Prop} [Decidable p] {e : FaultCode} {x : Except FaultCode α} {a : α} :
    (if p then .error e else x) = .ok a ↔ ¬ p ∧ x = .ok a := by
  by_cases hp : p <;> simp [hp]

section Status

variable {c : Config} {s t : State}

theorem searchCommand_status {find : List Byte → Option Nat} (h : searchCommand find s = .ok t) :
    ∃ b, t.status = withFlag s.status .found b := by
  obtain ⟨-, -, _, -, ⟨_, -, rfl⟩ | ⟨-, rfl⟩⟩ := searchCommand_ok h
  · exact ⟨true, rfl⟩
  · exact ⟨false, rfl⟩

theorem reduceCommand_status {f : List Byte → List Byte} (h : reduceCommand f s = .ok t) : t.status = s.status := by
  obtain ⟨-, _, -, -, rfl⟩ := reduceCommand_ok h
  rfl

theorem ruleEncsec_status (h : ruleEncsec c s = .ok t) : t.status = s.status := by
  obtain ⟨-, h⟩ := ite_error_eq_ok_iff.1 h
  split at h
  · cases h
  · simp only [bind_ok_iff, memWrite_ok_iff, Except.ok.injEq] at h
    obtain ⟨_, -, _, ⟨-, rfl⟩, rfl⟩ := h
    rfl

theorem ruleDecsec_status (h : ruleDecsec c s = .ok t) : t.status = s.status := by
  simp only [ruleDecsec, ite_error_eq_ok_iff, bind_ok_iff, memWrite_ok_iff, Except.ok.injEq] at h
  obtain ⟨-, _, -, _, ⟨-, rfl⟩, _, ⟨-, rfl⟩, rfl⟩ := h
  rfl

theorem ruleBadgcr_status (h : ruleBadgcr s = .ok t) : ∃ b, t.status = withFlag s.status .bad b := by
  simp only [ruleBadgcr, ite_error_eq_ok_iff, bind_ok_iff, Except.ok.injEq] at h
  obtain ⟨-, _, -, _, -, rfl⟩ := h
  exact ⟨_, rfl⟩

theorem ruleSyncflg_status (h : ruleSyncflg c s = .ok t) : t.status = s.status := by
  simp only [ruleSyncflg, ite_error_eq_ok_iff, bind_ok_iff, Except.ok.injEq] at h
  obtain ⟨-, _, -, rfl⟩ := h
  rfl

theorem ruleCycdet_status (h : ruleCycdet s = .ok t) : t.status = s.status := by
  unfold ruleCycdet at h
  split at h
  · simp only [ite_error_eq_ok_iff, bind_ok_iff, Except.ok.injEq] at h
    obtain ⟨-, -, -, _, -, rfl⟩ := h
    rfl
  · cases h

theorem ruleIsshift_status (h : ruleIsshift s = .ok t) : ∃ b, t.status = withFlag s.status .shifted b := by
  simp only [ruleIsshift, bind_ok_iff, Except.ok.injEq] at h
  obtain ⟨_, -, rfl⟩ := h
  exact ⟨_, rfl⟩

theorem ruleAlignbs_status (h : ruleAlignbs s = .ok t) : t.status = s.status := by
  simp only [ruleAlignbs, bind_ok_iff, memWrite_ok_iff, Except.ok.injEq] at h
  obtain ⟨_, -, _, ⟨-, rfl⟩, rfl⟩ := h
  rfl

theorem ruleAlignsel_status (h : ruleAlignsel c s = .ok t) : t.status = s.status := by
  obtain ⟨-, h⟩ := ite_error_eq_ok_iff.1 h
  split at h
  · cases h
  · simp only [ite_error_eq_ok_iff, bind_ok_iff, memWrite_ok_iff, Except.ok.injEq] at h
    obtain ⟨-, _, -, _, ⟨-, rfl⟩, _, ⟨-, rfl⟩, rfl⟩ := h
    rfl

/-- Everything a rule but SRESET's can do to STATUS when it completes: nothing, or write the one flag of its command. -/
theorem ruleUnder_status {i : Instr} (hi : i ≠ .sreset) (h : ruleUnder c i s = .ok t) :
    t.status = s.status ∨ ∃ f b, ruleFlag i = some f ∧ t.status = withFlag s.status f b := by
  cases i with
  | nop | enc4 | dec4 =>
    cases h
    exact .inl rfl
  | encsec => exact .inl (ruleEncsec_status h)
  | decsec => exact .inl (ruleDecsec_status h)
  | fsync | fhdr =>
    obtain ⟨b, hb⟩ := searchCommand_status h
    exact .inr ⟨_, b, rfl, hb⟩
  | badgcr =>
    obtain ⟨b, hb⟩ := ruleBadgcr_status h
    exact .inr ⟨_, b, rfl, hb⟩
  | syncflg => exact .inl (ruleSyncflg_status h)
  | cycdet => exact .inl (ruleCycdet_status h)
  | isshift =>
    obtain ⟨b, hb⟩ := ruleIsshift_status h
    exact .inr ⟨_, b, rfl, hb⟩
  | alignbs => exact .inl (ruleAlignbs_status h)
  | alignsel => exact .inl (ruleAlignsel_status h)
  | redrun | redgap | reduce => exact .inl (reduceCommand_status h)
  | sreset => exact absurd rfl hi

/-- A rule leaves every flag that is not its command's. -/
theorem ruleUnder_flag {i : Instr} (hi : i ≠ .sreset) (h : ruleUnder c i s = .ok t) {f : Flag} (hf : ruleFlag i ≠ some f) :
    t.flag f = s.flag f := by
  obtain e | ⟨f', b, hf', e⟩ := ruleUnder_status hi h
  · exact congrArg (flagOf · f) e
  · have hne : f' ≠ f := fun h => hf (h ▸ hf')
    rw [State.flag, e, flagOf_withFlag, if_neg hne, State.flag]

end Status

theorem State.flag_setFlag (s : State) (f f' : Flag) (b : Bool) :
    (s.setFlag f b).flag f' = if f = f' then b else s.flag f' := flagOf_withFlag s.status f f' b

/-- The reset clears every flag (60_exceptions.md R251). -/
theorem flag_resetBlock (s : State) (f : Flag) : (resetBlock s).flag f = false := by
  rw [State.flag, resetBlock_status]
  cases f <;> decide

/-- FAULT is the flag of no rule: only the fault entry sets it (60_exceptions.md R241). -/
theorem ruleFlag_ne_fault (i : Instr) : ruleFlag i ≠ some .fault := by cases i <;> decide

/-- A command that completes leaves FAULT at 0 (30_encoding.md R83). -/
theorem flag_fault_of_completed {i : Instr} (hi : i ≠ .sreset) {s u : State} (hs : s.flag .fault = false)
    (hu : ruleUnder params i (s.setFlag .done false) = .ok u) : (u.setFlag .done true).flag .fault = false := by
  rw [State.flag_setFlag, if_neg (by decide), ruleUnder_flag hi hu (ruleFlag_ne_fault i), State.flag_setFlag,
    if_neg (by decide), hs]

theorem faultNumber_mem (c : FaultCode) : faultNumber c ∈ ([0x01, 0x02, 0x03, 0x04, 0x05] : List Byte) := by
  cases c <;> decide

/-- Settles O44: of what a command can do (`exec_cases`), only the fault entry answers FAULT = 1 on an unfaulted block, and
the reset clears it. -/
theorem faultChangesNothingElse : Obligations.FaultChangesNothingElse := by
  intro i s t hs h hf
  have hi : i ≠ .sreset := by
    rintro rfl
    cases h
    exact absurd hf (by simp [flag_resetBlock])
  obtain ⟨hs', -⟩ | ⟨-, c, -, e⟩ | ⟨-, u, hu, e⟩ := exec_cases hi s
  · exact absurd hs' (by simp [hs])
  · exact ⟨faultNumber c, faultNumber_mem c, Host.Outcome.next.inj (h.symm.trans e)⟩
  · obtain rfl := Host.Outcome.next.inj (h.symm.trans e)
    exact absurd hf (by simp [flag_fault_of_completed hi hs hu])

/-! ### The illegal command -/

/-- A number that is the opcode of no command, compared whole, is rejected (30_encoding.md R83, R84). -/
theorem decodeWrite_of_forall_encode_ne {c : Config} {n : Nat} (h : ∀ i, (encode i).toNat ≠ n) :
    decodeWrite c n = .error .illegalOpcode := by
  obtain hn | hn := Nat.lt_or_ge n 256
  · rw [decodeWrite_of_lt hn]
    refine decode_of_forall_encode_ne fun i hi => h i ?_
    rw [hi, BitVec.toNat_ofNat, Nat.mod_eq_of_lt hn]
  · exact decodeWrite_of_le hn

/-- Settles O5: either number is rejected by the decoder, and a rejected number raises `FLT_ILLCMD`. -/
theorem illegalCommandFaults : Obligations.IllegalCommandFaults := by
  rintro c n s hs (hn | ⟨hc, hn⟩)
  · exact startCommand_of_decode_error (decodeWrite_of_forall_encode_ne hn) hs
  · obtain ⟨i, hi, rfl⟩ := exists_isU5_encode hn
    exact startCommand_of_decode_error (decodeWrite_encode_of_absent hc hi) hs

end Sys2Proof.Machine
end

section
/-! The reset state (70_reset_and_hazards.md R261): its registers, and what of it holds no value. -/

namespace Sys2Proof.Machine

/-! ### What holds no value -/

/-- A zone table in which no zone holds a value (10_state.md R33). -/
theorem zoneGet_of_none (z : BitVec 2) : zoneGet ⟨none, none, none, none⟩ z = none := by
  unfold zoneGet
  split <;> rfl

/-- A host read of a byte that holds no value is unspecified (20_memory.md R61; 93_implementation_defined.md I5). -/
theorem hostView_buf_of_readByte_eq_none (c : Config) {s : State} {b : Buf} {a : Nat} (h : readByte (s.mem b) a = none) :
    hostView c s (.buf b) a = none := by
  simp [hostView, h]

/-- The buffers are empty after the reset (70_reset_and_hazards.md R261). -/
@[simp] theorem mem_reset (b : Buf) : State.reset.mem b = [] := by cases b <;> rfl

theorem readByte_reset (b : Buf) (a : Nat) : readByte (State.reset.mem b) a = none := by
  rw [mem_reset, readByte]

/-- Settles O9: the registers by the fields of the reset state, then the three zone tables and ALLOW, then the buffers, which
are empty (`readByte_reset`). -/
theorem resetLeavesTheStatedValues : Obligations.ResetLeavesTheStatedValues := by
  unfold Obligations.ResetLeavesTheStatedValues
  intro r
  repeat refine ⟨rfl, ?_⟩
  exact ⟨fun z => ⟨zoneGet_of_none z, zoneGet_of_none z, zoneGet_of_none z⟩, rfl, readByte_reset,
    fun b a => hostView_buf_of_readByte_eq_none params (readByte_reset b a)⟩

end Sys2Proof.Machine
end

section
/-! What a rule that completes leaves unchanged (10_state.md R25 to R34, 20_memory.md R60), and the invariant of the
machine: every command, host store and reset keeps it. -/

namespace Sys2Proof.Machine

/-! ### The buffers -/

/-- Every buffer is in canonical form within its capacity (20_memory.md R60). -/
def BufsWf (s : State) : Prop := ∀ b, Memory.wf (bufCap b) (s.mem b)

/-- A store that fits keeps the buffers canonical (20_memory.md R65). -/
theorem BufsWf.setMem {s : State} (h : BufsWf s) {b : Buf} {a : Nat} {l : List Byte}
    (hl : l = [] ∨ a + l.length ≤ bufCap b) : BufsWf (s.setMem b (writeBytes (s.mem b) a l)) := by
  intro b'
  by_cases hb : b' = b
  · subst hb
    rw [State.mem_setMem]
    exact writeBytes_wf (h b') hl
  · rw [State.mem_setMem_ne s b b' _ hb]
    exact h b'

theorem BufsWf.memWrite {s t : State} (h : BufsWf s) {b : Buf} {a : Nat} {l : List Byte}
    (ht : memWrite s b a l = .ok t) : BufsWf t := by
  obtain ⟨hl, rfl⟩ := memWrite_ok_iff.1 ht
  exact h.setMem hl

/-! ### What a completed rule writes -/

/-- `s` with the registers and buffers that a completed command `i` may write, and STATUS, taken from `t` (10_state.md R26 to
R30, 20_memory.md R60). -/
def State.updatedBy (s : State) (i : Instr) (t : State) : State :=
  match i with
  | .nop | .badgcr | .isshift | .sreset => { s with status := t.status }
  | .enc4 => { s with g0 := t.g0, g1 := t.g1, g2 := t.g2, g3 := t.g3, g4 := t.g4, status := t.status }
  | .dec4 => { s with p0 := t.p0, p1 := t.p1, p2 := t.p2, p3 := t.p3, valid := t.valid, status := t.status }
  | .encsec => { s with tb := t.tb, pos := t.pos, outlen := t.outlen, status := t.status }
  | .decsec => { s with wb := t.wb, sb := t.sb, err := t.err, status := t.status }
  | .fsync | .fhdr => { s with res := t.res, pos := t.pos, status := t.status }
  | .syncflg => { s with zflags := t.zflags, status := t.status }
  | .cycdet => { s with cycs := t.cycs, cycl := t.cycl, strat := t.strat, status := t.status }
  | .alignbs => { s with wb := t.wb, outlen := t.outlen, padbits := t.padbits, status := t.status }
  | .alignsel =>
    { s with
      tb := t.tb, wb := t.wb, cycs := t.cycs, len := t.len, outlen := t.outlen, res := t.res, tag := t.tag
      status := t.status }
  | .redrun | .redgap | .reduce => { s with tb := t.tb, len := t.len, outlen := t.outlen, status := t.status }

/-- The registers of `writtenRegs`, and STATUS, are those of `t`; the others are those of `s`. -/
theorem readReg_updatedBy (c : Config) (s t : State) (i : Instr) (r : Reg) :
    readReg c (s.updatedBy i t) r = if r ∈ writtenRegs i ∨ r = .status then readReg c t r else readReg c s r := by
  cases i <;> cases r <;> rfl

/-- The buffers of `writtenBufs` are those of `t`; the others are those of `s`. -/
theorem mem_updatedBy (s t : State) (i : Instr) (b : Buf) :
    (s.updatedBy i t).mem b = if b ∈ writtenBufs i then t.mem b else s.mem b := by
  cases i <;> cases b <;> rfl

/-- What a rule answers, if it does, is `s` with its own writes, which keep the buffers canonical. -/
def WritesOnly (i : Instr) (s t : State) : Prop := t = s.updatedBy i t ∧ (BufsWf s → BufsWf t)

section Writes
variable {c : Config} {s t : State}

theorem writesOnly_of_searchCommand {i : Instr} (hi : i = .fsync ∨ i = .fhdr) {find : List Byte → Option Nat}
    (h : searchCommand find s = .ok t) : WritesOnly i s t := by
  obtain ⟨-, -, _, -, ⟨_, -, rfl⟩ | ⟨-, rfl⟩⟩ := searchCommand_ok h <;> obtain rfl | rfl := hi <;> exact ⟨rfl, id⟩

theorem writesOnly_of_reduceCommand {i : Instr} (hi : i = .redrun ∨ i = .redgap ∨ i = .reduce)
    {f : List Byte → List Byte} (h : reduceCommand f s = .ok t) : WritesOnly i s t := by
  obtain ⟨-, l, -, hl, rfl⟩ := reduceCommand_ok h
  have hwf (hs : BufsWf s) : BufsWf (s.setMem .tb (writeBytes s.tb 0 (f l))) :=
    hs.setMem (by simpa [bufCap] using hl)
  obtain rfl | rfl | rfl := hi <;> exact ⟨rfl, hwf⟩

theorem writesOnly_of_ruleEncsec (h : ruleEncsec c s = .ok t) : WritesOnly .encsec s t := by
  obtain ⟨-, h⟩ := ite_error_eq_ok_iff.1 h
  split at h
  · cases h
  · simp only [bind_ok_iff, memWrite_ok_iff, Except.ok.injEq] at h
    obtain ⟨_, -, _, ⟨hl, rfl⟩, rfl⟩ := h
    exact ⟨rfl, fun hs => hs.setMem hl⟩

theorem writesOnly_of_ruleDecsec (h : ruleDecsec c s = .ok t) : WritesOnly .decsec s t := by
  simp only [ruleDecsec, ite_error_eq_ok_iff, bind_ok_iff, memWrite_ok_iff, Except.ok.injEq] at h
  obtain ⟨-, _, -, _, ⟨hl, rfl⟩, _, ⟨hl', rfl⟩, rfl⟩ := h
  exact ⟨rfl, fun hs => (hs.setMem hl).setMem hl'⟩

theorem writesOnly_of_ruleBadgcr (h : ruleBadgcr s = .ok t) : WritesOnly .badgcr s t := by
  simp only [ruleBadgcr, ite_error_eq_ok_iff, bind_ok_iff, Except.ok.injEq] at h
  obtain ⟨-, _, -, _, -, rfl⟩ := h
  exact ⟨rfl, id⟩

theorem writesOnly_of_ruleSyncflg (h : ruleSyncflg c s = .ok t) : WritesOnly .syncflg s t := by
  simp only [ruleSyncflg, ite_error_eq_ok_iff, bind_ok_iff, Except.ok.injEq] at h
  obtain ⟨-, _, -, rfl⟩ := h
  exact ⟨rfl, id⟩

theorem writesOnly_of_ruleCycdet (h : ruleCycdet s = .ok t) : WritesOnly .cycdet s t := by
  unfold ruleCycdet at h
  split at h
  · simp only [ite_error_eq_ok_iff, bind_ok_iff, Except.ok.injEq] at h
    obtain ⟨-, -, -, _, -, rfl⟩ := h
    exact ⟨rfl, id⟩
  · cases h

theorem writesOnly_of_ruleIsshift (h : ruleIsshift s = .ok t) : WritesOnly .isshift s t := by
  simp only [ruleIsshift, bind_ok_iff, Except.ok.injEq] at h
  obtain ⟨_, -, rfl⟩ := h
  exact ⟨rfl, id⟩

theorem writesOnly_of_ruleAlignbs (h : ruleAlignbs s = .ok t) : WritesOnly .alignbs s t := by
  simp only [ruleAlignbs, bind_ok_iff, memWrite_ok_iff, Except.ok.injEq] at h
  obtain ⟨_, -, _, ⟨hl, rfl⟩, rfl⟩ := h
  exact ⟨rfl, fun hs => hs.setMem hl⟩

theorem writesOnly_of_ruleAlignsel (h : ruleAlignsel c s = .ok t) : WritesOnly .alignsel s t := by
  obtain ⟨-, h⟩ := ite_error_eq_ok_iff.1 h
  split at h
  · cases h
  · simp only [ite_error_eq_ok_iff, bind_ok_iff, memWrite_ok_iff, Except.ok.injEq] at h
    obtain ⟨-, _, -, _, ⟨hl, rfl⟩, _, ⟨hl', rfl⟩, rfl⟩ := h
    exact ⟨rfl, fun hs => (hs.setMem hl).setMem hl'⟩

/-- Everything a completed rule but SRESET's writes (10_state.md R26 to R30, 20_memory.md R60). -/
theorem ruleUnder_writesOnly {i : Instr} (hi : i ≠ .sreset) (h : ruleUnder c i s = .ok t) : WritesOnly i s t := by
  cases i with
  | nop | enc4 | dec4 =>
    cases h
    exact ⟨rfl, id⟩
  | encsec => exact writesOnly_of_ruleEncsec h
  | decsec => exact writesOnly_of_ruleDecsec h
  | fsync => exact writesOnly_of_searchCommand (.inl rfl) h
  | fhdr => exact writesOnly_of_searchCommand (.inr rfl) h
  | badgcr => exact writesOnly_of_ruleBadgcr h
  | syncflg => exact writesOnly_of_ruleSyncflg h
  | cycdet => exact writesOnly_of_ruleCycdet h
  | isshift => exact writesOnly_of_ruleIsshift h
  | alignbs => exact writesOnly_of_ruleAlignbs h
  | alignsel => exact writesOnly_of_ruleAlignsel h
  | redrun => exact writesOnly_of_reduceCommand (.inl rfl) h
  | redgap => exact writesOnly_of_reduceCommand (.inr (.inl rfl)) h
  | reduce => exact writesOnly_of_reduceCommand (.inr (.inr rfl)) h
  | sreset => exact absurd rfl hi

end Writes

/-- No rule writes FAULTC (10_state.md R32) or the model's record of the host. -/
theorem updatedBy_unwritten (s t : State) (i : Instr) :
    (s.updatedBy i t).faultc = s.faultc ∧ (s.updatedBy i t).host = s.host ∧ (s.updatedBy i t).hostData = s.hostData
      ∧ (s.updatedBy i t).drawn = s.drawn := by
  cases i <;> exact ⟨rfl, rfl, rfl, rfl⟩

end Sys2Proof.Machine
end

section
/-! The invariant of the machine (10_state.md R29, R32, 20_memory.md R60): every command, host access and reset keeps it,
and the frame of every command. -/

namespace Sys2Proof.Machine

/-! ### The status of a fault -/

/-- The fault entry sets FAULT, clears DONE and leaves every other flag (60_exceptions.md R241). -/
theorem flag_faulted (n : Byte) (s : State) (f : Flag) :
    (faulted n s).flag f = if f = .fault then true else if f = .done then false else s.flag f := by
  have hstatus : (faulted n s).status = withFlag (withFlag s.status .done false) .fault true :=
    (withFlag_done_fault s.status).symm
  rw [State.flag, hstatus, flagOf_withFlag, flagOf_withFlag]
  cases f <;> rfl

/-- Of the reserved bits neither DONE nor FAULT is one (10_state.md R29). -/
theorem withFlag_reserved_eq (v : Byte) (f : Flag) (b : Bool) : withFlag v f b &&& 0x70 = v &&& 0x70 := by
  revert v; cases f <;> cases b <;> decide +kernel

theorem reserved_faulted (n : Byte) (s : State) : (faulted n s).status &&& 0x70 = s.status &&& 0x70 := by
  have hstatus : (faulted n s).status = withFlag (withFlag s.status .done false) .fault true :=
    (withFlag_done_fault s.status).symm
  rw [hstatus, withFlag_reserved_eq, withFlag_reserved_eq]

/-- A rule leaves the reserved bits of STATUS (10_state.md R29). -/
theorem ruleUnder_reserved {c : Config} {i : Instr} {s t : State} (hi : i ≠ .sreset) (h : ruleUnder c i s = .ok t) :
    t.status &&& 0x70 = s.status &&& 0x70 := by
  obtain e | ⟨f, b, -, e⟩ := ruleUnder_status hi h
  · rw [e]
  · rw [e, withFlag_reserved_eq]

/-! ### What a command leaves unchanged -/

/-- The commands that list FOUND, BAD and SHIFTED (10_state.md R29). -/
theorem command_of_ruleFlag (i : Instr) :
    (ruleFlag i = some .found → i ∈ [Instr.fsync, .fhdr]) ∧ (ruleFlag i = some .bad → i = .badgcr)
      ∧ (ruleFlag i = some .shifted → i = .isshift) := by
  cases i <;> decide

/-- Settles O45: a faulted block ignores the command (`runCommand_of_fault`). -/
theorem faultIsStickyUntilReset : Obligations.FaultIsStickyUntilReset := by
  intro i s t hs h hi
  rw [exec_eq_runCommand hi, runCommand_of_fault hs] at h
  exact (Host.Outcome.next.inj h).symm

/-- Settles O46: the three things a command can do (`exec_cases`) leave DONE and FAULT apart. -/
theorem everyCommandCompletesOrFaults : Obligations.EveryCommandCompletesOrFaults := by
  intro i s
  by_cases hi : i = .sreset
  · subst hi
    exact ⟨_, rfl, fun h => absurd rfl h⟩
  obtain ⟨hs, e⟩ | ⟨-, c, -, e⟩ | ⟨hs, u, hu, e⟩ := exec_cases hi s
  · exact ⟨s, e, fun _ hs' => absurd hs (by simp [hs'])⟩
  · exact ⟨_, e, fun _ _ => by simp [flag_faulted]⟩
  · exact ⟨_, e, fun _ _ => by simp [flag_fault_of_completed hi hs hu, State.flag_setFlag]⟩

/-- Settles O50: a fault writes DONE and FAULT, and a completed rule the flag of its command (`ruleUnder_flag`). -/
theorem unlistedFlagsAreUnchanged : Obligations.UnlistedFlagsAreUnchanged := by
  intro i s t hi h
  have keeps {f : Flag} (hf : ruleFlag i ≠ some f) (hdone : f ≠ .done) (hfault : f ≠ .fault) : t.flag f = s.flag f := by
    obtain ⟨-, e⟩ | ⟨-, c, -, e⟩ | ⟨-, u, hu, e⟩ := exec_cases hi s <;> obtain rfl := Host.Outcome.next.inj (h.symm.trans e)
    · rfl
    · rw [flag_faulted, if_neg hfault, if_neg hdone]
    · rw [State.flag_setFlag, if_neg hdone.symm, ruleUnder_flag hi hu hf, State.flag_setFlag, if_neg hdone.symm]
  obtain ⟨hfound, hbad, hshifted⟩ := command_of_ruleFlag i
  refine ⟨fun hn => keeps (mt hfound hn) (by decide) (by decide), fun hn => keeps (mt hbad hn) (by decide) (by decide),
    fun hn => keeps (mt hshifted hn) (by decide) (by decide), ?_⟩
  obtain ⟨-, e⟩ | ⟨-, c, -, e⟩ | ⟨-, u, hu, e⟩ := exec_cases hi s <;> obtain rfl := Host.Outcome.next.inj (h.symm.trans e)
  · rfl
  · exact reserved_faulted _ s
  · rw [State.setFlag_status, withFlag_reserved_eq, ruleUnder_reserved hi hu, State.setFlag_status, withFlag_reserved_eq]

/-- DONE is in no register but STATUS. -/
theorem readReg_setFlag (c : Config) (s : State) (f : Flag) (b : Bool) {r : Reg} (hr : r ≠ .status) :
    readReg c (s.setFlag f b) r = readReg c s r := by
  cases r
  case status => exact absurd rfl hr
  all_goals rfl

/-- The fault entry writes STATUS and FAULTC only (60_exceptions.md R241). -/
theorem readReg_faulted (c : Config) (n : Byte) (s : State) {r : Reg} (hr : r ≠ .status) (hf : r ≠ .faultc) :
    readReg c (faulted n s) r = readReg c s r := by
  cases r
  case status => exact absurd rfl hr
  case faultc => exact absurd rfl hf
  all_goals rfl

@[simp] theorem mem_faulted (n : Byte) (s : State) (b : Buf) : (faulted n s).mem b = s.mem b := by cases b <;> rfl

/-- Settles O51: a fault writes STATUS and FAULTC only, and a completed rule what `writtenRegs` and `writtenBufs` list
(`ruleUnder_writesOnly`). -/
theorem unlistedStateIsUnchanged : Obligations.UnlistedStateIsUnchanged := by
  intro i s t hi h
  obtain ⟨-, e⟩ | ⟨-, c, -, e⟩ | ⟨-, u, hu, e⟩ := exec_cases hi s <;> obtain rfl := Host.Outcome.next.inj (h.symm.trans e)
  · exact ⟨fun _ _ _ _ => rfl, fun _ _ _ => rfl, rfl, rfl, rfl⟩
  · exact ⟨fun r _ hr hf => readReg_faulted params _ s hr hf, fun b _ a => by rw [mem_faulted], rfl, rfl, rfl⟩
  · obtain ⟨hwrites, -⟩ := ruleUnder_writesOnly hi hu
    obtain ⟨-, hhost⟩ := updatedBy_unwritten (s.setFlag .done false) u i
    refine ⟨fun r hr hs _ => ?_, fun b hb a => ?_, ?_⟩
    · rw [readReg_setFlag params u _ _ hs, hwrites, readReg_updatedBy, if_neg (not_or.2 ⟨hr, hs⟩),
        readReg_setFlag params s _ _ hs]
    · rw [State.setFlag_mem, hwrites, mem_updatedBy, if_neg hb, State.setFlag_mem]
    · rwa [← hwrites] at hhost

/-! ### The invariant -/

/-- What the invariant says of STATUS and FAULTC (10_state.md R29, R32; 60_exceptions.md R247). -/
abbrev StatusWf (v n : Byte) : Prop :=
  v &&& 0x70 = 0 ∧ ¬ (flagOf v .fault = true ∧ flagOf v .done = true) ∧ (flagOf v .fault = true ↔ n ≠ 0) ∧ n.toNat ≤ 5

theorem inv_iff (s : State) : Inv s ↔ BufsWf s ∧ StatusWf s.status s.faultc := by
  constructor
  · rintro ⟨htb, hwb, hsb, hstatus⟩
    exact ⟨fun b => by cases b <;> assumption, hstatus⟩
  · rintro ⟨hbufs, hstatus⟩
    exact ⟨hbufs .tb, hbufs .wb, hbufs .sb, hstatus⟩

/-- Settles O48. -/
theorem resetSatisfiesInv : Obligations.ResetSatisfiesInv :=
  (inv_iff _).2 ⟨fun b => by rw [mem_reset]; exact ⟨.nil, fun _ h => nomatch h⟩, by decide⟩

/-- The reset state satisfies the invariant, whatever the host's record holds (70_reset_and_hazards.md R261). -/
theorem inv_resetBlock (s : State) : Inv (resetBlock s) := resetSatisfiesInv

/-- Taking a fault keeps the invariant: FAULT and FAULTC are set together (60_exceptions.md R241). -/
theorem Inv.faulted {s : State} (h : Inv s) (c : FaultCode) : Inv (Machine.faulted (faultNumber c) s) := by
  obtain ⟨hbufs, hres, -, hfault, hle⟩ := (inv_iff s).1 h
  have hcode : (Machine.faulted (faultNumber c) s).faultc = if s.faultc = 0 then faultNumber c else s.faultc := rfl
  have hflag (f : Flag) := flag_faulted (faultNumber c) s f
  refine (inv_iff _).2 ⟨fun b => by rw [mem_faulted]; exact hbufs b, by rw [reserved_faulted, hres], ?_, ?_, ?_⟩
  · exact fun hc => by simpa [State.flag] using (hflag .done).symm.trans hc.2
  · refine iff_of_true (hflag .fault) ?_
    rw [hcode]
    split
    next => exact faultNumber_ne_zero c
    next hne => exact hne
  · rw [hcode]
    split
    · exact faultNumber_le c
    · exact hle

/-- Completing a command of an unfaulted block keeps the invariant (30_encoding.md R83). -/
theorem Inv.completed {s u : State} {i : Instr} (h : Inv s) (hi : i ≠ .sreset) (hs : s.flag .fault = false)
    (hu : ruleUnder params i (s.setFlag .done false) = .ok u) : Inv (u.setFlag .done true) := by
  obtain ⟨hbufs, hres, -, hfault, -⟩ := (inv_iff s).1 h
  obtain ⟨hwrites, hkeep⟩ := ruleUnder_writesOnly hi hu
  have hcode : u.faultc = 0 := by
    rw [hwrites, (updatedBy_unwritten _ _ _).1, State.setFlag_faultc]
    by_contra hne
    exact absurd (hfault.2 hne) (by rw [← State.flag, hs]; decide)
  have hflag := flag_fault_of_completed hi hs hu
  have hu_wf : BufsWf u := hkeep fun b => by rw [State.setFlag_mem]; exact hbufs b
  refine (inv_iff _).2 ⟨fun b => by rw [State.setFlag_mem]; exact hu_wf b, ?_, ?_, ?_, ?_⟩
  · rw [State.setFlag_status, withFlag_reserved_eq, ruleUnder_reserved hi hu, State.setFlag_status, withFlag_reserved_eq,
      hres]
  · exact fun hc => Bool.false_ne_true (hflag.symm.trans hc.1)
  · rw [State.setFlag_faultc, hcode]
    exact iff_of_false (fun hc => Bool.false_ne_true (hflag.symm.trans hc)) (not_not.2 rfl)
  · rw [State.setFlag_faultc, hcode]
    decide

/-- Every command keeps the invariant. -/
theorem Inv.exec {s t : State} {i : Instr} (h : Inv s) (ht : exec i s = .next t) : Inv t := by
  by_cases hi : i = .sreset
  · subst hi
    obtain rfl := Host.Outcome.next.inj ht
    exact inv_resetBlock s
  obtain ⟨-, e⟩ | ⟨-, c, -, e⟩ | ⟨hs, u, hu, e⟩ := exec_cases hi s <;>
    obtain rfl := Host.Outcome.next.inj (ht.symm.trans e)
  · exact h
  · exact h.faulted c
  · exact h.completed hi hs hu

/-- What the host's write to CMD starts keeps the invariant (30_encoding.md R83). -/
theorem Inv.startCommand {s t : State} {n : Nat} (h : Inv s) (ht : startCommand params n s = .next t) : Inv t := by
  have hcmd : Inv { s with cmd := BitVec.ofNat 8 n } := h
  unfold Machine.startCommand at ht
  split at ht
  next => exact hcmd.exec ((execUnder_params _ _).symm.trans ht)
  next =>
    obtain ⟨-, e⟩ | ⟨-, c, -, e⟩ | ⟨-, u, hu, -⟩ :=
      runCommand_cases (fun _ => .error .illCmd) { s with cmd := BitVec.ofNat 8 n }
    · obtain rfl := Host.Outcome.next.inj (ht.symm.trans e)
      exact hcmd
    · obtain rfl := Host.Outcome.next.inj (ht.symm.trans e)
      exact hcmd.faulted c
    · cases hu

/-- A host write to a register leaves STATUS and FAULTC, which are read-only (10_state.md R29, R32). -/
theorem hostStore_status (c : Config) (sp : Space) (a v : Nat) (s : State) :
    (hostStore c sp a v s).status = s.status ∧ (hostStore c sp a v s).faultc = s.faultc := by
  have write (r : Reg) : (writeReg c s r v).status = s.status ∧ (writeReg c s r v).faultc = s.faultc := by
    unfold writeReg
    split
    · exact ⟨rfl, rfl⟩
    · cases r <;> exact ⟨rfl, rfl⟩
  unfold hostStore
  cases sp with
  | reg =>
    cases regAt a with
    | none => exact ⟨rfl, rfl⟩
    | some r => exact write r
  | buf b =>
    simp only
    split
    · exact ⟨rfl, rfl⟩
    · exact ⟨State.setMem_status .., State.setMem_faultc ..⟩

/-- A host write keeps the buffers canonical (20_memory.md R61). -/
theorem BufsWf.hostStore {s : State} (h : BufsWf s) (c : Config) (sp : Space) (a v : Nat) :
    BufsWf (hostStore c sp a v s) := by
  cases sp with
  | reg => exact fun b => by rw [hostStore_reg_mem]; exact h b
  | buf b =>
    simp only [Machine.hostStore]
    split
    next => exact h
    next ha => exact h.setMem (.inr (Nat.not_le.1 ha))

theorem Inv.hostStore {s : State} (h : Inv s) (c : Config) (sp : Space) (a v : Nat) : Inv (hostStore c sp a v s) := by
  obtain ⟨hbufs, hstatus⟩ := (inv_iff s).1 h
  obtain ⟨e1, e2⟩ := hostStore_status c sp a v s
  exact (inv_iff _).2 ⟨hbufs.hostStore c sp a v, by rw [e1, e2]; exact hstatus⟩

/-- A host read changes nothing of the block (20_memory.md R64). -/
theorem hostRead_eq (c : Config) (sp : Space) (a : Nat) (s : State) :
    hostRead c sp a s = { s with hostData := (hostRead c sp a s).hostData, drawn := (hostRead c sp a s).drawn } := by
  unfold hostRead
  split <;> rfl

theorem Inv.hostRead {s : State} (h : Inv s) (c : Config) (sp : Space) (a : Nat) : Inv (hostRead c sp a s) := by
  rw [hostRead_eq]
  exact h

/-- Every move of the host keeps the invariant. -/
theorem Inv.hostMove {s t : State} {m : HostMove} (h : Inv s) (ht : hostMove params m s = .next t) : Inv t := by
  cases m with
  | read sp a => exact Host.Outcome.next.inj ht ▸ h.hostRead params sp a
  | reset => exact Host.Outcome.next.inj ht ▸ inv_resetBlock s
  | write sp a v =>
    simp only [Machine.hostMove] at ht
    split at ht
    · exact h.startCommand ht
    · exact Host.Outcome.next.inj ht ▸ h.hostStore params sp a _

/-- Settles O47: a step is a move of the host (`Inv.hostMove`) or none. -/
theorem everyStepKeepsInv : Obligations.EveryStepKeepsInv := by
  intro s t h ht
  unfold step nextMove at ht
  split at ht
  next => exact Host.Outcome.next.inj ht ▸ h
  next m rest _ => exact Inv.hostMove (s := { s with host := rest }) h ht

end Sys2Proof.Machine
end

section
/-! The host's side (20_memory.md R61 to R65, 30_encoding.md R80 to R84): the decoder against the encoder, the CMD write,
and the buffer accesses. -/

namespace Sys2Proof.Machine

/-! ### The decoder -/

/-- The unit of a command is present where U5 is, or where the command is not one of U5's four (00_scope.md R12). -/
theorem wellFormed_iff (c : Config) (i : Instr) :
    WellFormed c i = true ↔ c.hasU5 = true ∨ i ∉ [Instr.alignsel, .redrun, .redgap, .reduce] := by
  rw [WellFormed, Bool.or_eq_true, Bool.not_eq_true']
  exact or_congr_right (by cases i <;> decide)

/-- Settles O2: the decoder answers on opcodes only (`encode_of_opcodeMap_eq_some`), and on each as `decode_encode` says. -/
theorem decodeInvertsEncode : Obligations.DecodeInvertsEncode := by
  intro c op i
  rw [← wellFormed_iff]
  constructor
  · intro h
    have hop : encode i = op := by
      unfold decode at h
      split at h
      next => cases h
      next j hj =>
        split at h <;> cases h
        exact encode_of_opcodeMap_eq_some hj
    subst hop
    rw [decode_encode i c] at h
    exact ⟨rfl, by split at h <;> [assumption; cases h]⟩
  · rintro ⟨rfl, h⟩
    exact (decode_encode i c).trans (if_pos h)

/-! ### The CMD write -/

/-- A number that decodes starts its command (30_encoding.md R83). -/
theorem startCommand_of_decode_ok {c : Config} {n : Nat} {i : Instr} (h : decodeWrite c n = .ok i) (s : State) :
    startCommand c n s = execUnder c i { s with cmd := BitVec.ofNat 8 n } := by
  simp only [startCommand, h]

/-- Settles O6: whatever rule the write would run, the faulted block ignores it (`runCommand_of_fault`). -/
theorem faultedBlockIgnoresCommands : Obligations.FaultedBlockIgnoresCommands := by
  intro c n s hs hn
  obtain ⟨rule, e⟩ := startCommand_eq (c := c) hn s
  rw [e]
  exact runCommand_of_fault hs

/-- Settles O7: no rule writes CMD (`startCommand_cmd`). -/
theorem cmdHoldsTheValueWritten : Obligations.CmdHoldsTheValueWritten := fun _ _ _ _ hn h => startCommand_cmd hn h

/-- The step of a CMD write is that write (30_encoding.md R83). -/
theorem step_of_cmd_write {s : State} {v : HostValue} {rest : List HostMove} (h : s.host = .write .reg 0x30 v :: rest) :
    step s = startCommand params (hostNumber s v) { s with host := rest } := by
  have hnumber : hostNumber { s with host := rest } v = hostNumber s v := by cases v <;> rfl
  rw [← hnumber, step, nextMove, h]
  rfl

/-- Settles O3: the step is the CMD write (`step_of_cmd_write`), whose number is decoded whole. -/
theorem stepRunsTheDecodedCommand : Obligations.StepRunsTheDecodedCommand := by
  intro s v rest hhost
  simp only [step_of_cmd_write hhost]
  refine ⟨fun i hn hi => ?_, fun hn hs => ?_, fun hn hs => ?_⟩
  · rw [startCommand_of_decode_ok ((decodeWrite_of_lt hn).trans hi), execUnder_params]
  · exact startCommand_of_decode_error (s := { s with host := rest }) (decodeWrite_of_le hn) hs
  · exact faultedBlockIgnoresCommands params _ { s with host := rest } hs (by omega)

/-- Settles O4. -/
theorem noHostMoveNoChange : Obligations.NoHostMoveNoChange := by
  intro s h
  rw [step, nextMove, h]

/-- The write of 0xFF to CMD is SRESET under any parameters (30_encoding.md R82). -/
theorem startCommand_sreset (c : Config) (s : State) : startCommand c 0xFF s = .next (resetBlock s) := by
  have hdecode : decodeWrite c 0xFF = .ok .sreset :=
    (decodeWrite_of_lt (by decide)).trans ((decode_encode .sreset c).trans (if_pos (by simp [WellFormed, Instr.isU5])))
  rw [startCommand_of_decode_ok hdecode, execUnder_sreset]
  rfl

/-- Settles O10: both are the reset of the block (`startCommand_sreset`). -/
theorem platformResetEqualsSreset : Obligations.PlatformResetEqualsSreset := fun s => (startCommand_sreset params s).symm

theorem exec_nop_of_unfaulted {s : State} (hs : s.flag .fault = false) :
    exec .nop s = .next { s with status := s.status ||| 0x01 } := by
  rw [← withFlag_done_done]
  exact runCommand_of_ok hs rfl

/-- The invariant keeps DONE at 0 on a faulted block (10_state.md R29). -/
theorem Inv.done_of_fault {s : State} (h : Inv s) (hs : s.flag .fault = true) : s.flag .done = false := by
  obtain ⟨-, -, hboth, -⟩ := (inv_iff s).1 h
  exact Bool.eq_false_iff.2 fun hd => hboth ⟨hs, hd⟩

/-- Settles O8: NOP's rule answers the state; a faulted block ignores it, and there DONE is 0. -/
theorem nopAndSresetComplete : Obligations.NopAndSresetComplete := by
  refine ⟨fun s => exec_nop_of_unfaulted, fun s h => ?_, fun s => ⟨resetBlock s, rfl, rfl, rfl, rfl⟩⟩
  obtain ⟨t, ht, hdone⟩ := everyCommandCompletesOrFaults .nop s
  refine ⟨t, ht, ?_⟩
  cases hs : s.flag .fault
  · exact hdone (by decide) hs
  · obtain rfl := faultIsStickyUntilReset .nop s t hs ht (by decide)
    simp [hs, h.done_of_fault hs]

/-! ### Buffer accesses -/

/-- A host write elsewhere than to CMD is a store (20_memory.md R61). -/
theorem hostMove_write_of_ne {c : Config} {sp : Space} {a : Nat} {v : HostValue} {s : State}
    (h : ¬ (sp = .reg ∧ a = regIndex .cmd)) :
    hostMove c (.write sp a v) s = .next (hostStore c sp a (hostNumber s v) s) := if_neg h

theorem hostStore_buf_of_outside {c : Config} {s : State} {b : Buf} {a v : Nat} (h : bufCap b ≤ a) :
    hostStore c (.buf b) a v s = s := if_pos h

theorem hostStore_buf_of_lt {c : Config} {s : State} {b : Buf} {a v : Nat} (h : a < bufCap b) :
    hostStore c (.buf b) a v s = s.setMem b (writeBytes (s.mem b) a [BitVec.ofNat 8 v]) := if_neg (Nat.not_le.2 h)

theorem hostView_buf_of_outside {c : Config} {s : State} {b : Buf} {a : Nat} (h : bufCap b ≤ a) :
    hostView c s (.buf b) a = none := if_pos h

theorem hostView_buf_of_lt {c : Config} {s : State} {b : Buf} {a : Nat} (h : a < bufCap b) :
    hostView c s (.buf b) a = (readByte (s.mem b) a).map (BitVec.setWidth 16) := if_neg (Nat.not_le.2 h)

/-- One byte written: that address of that buffer reads it, every other reads as before (20_memory.md R65). -/
theorem readByte_setMem_writeBytes_one (s : State) (b b' : Buf) (a a' : Nat) (v : Byte) :
    readByte ((s.setMem b (writeBytes (s.mem b) a [v])).mem b') a' =
      if b' = b ∧ a' = a then some v else readByte (s.mem b') a' := by
  by_cases hb : b' = b
  · subst hb
    rw [State.mem_setMem, readByte_writeBytes]
    by_cases ha : a' = a
    · simp [ha]
    · rw [if_neg (by simp only [List.length_singleton]; omega), if_neg fun h => ha h.2]
  · rw [State.mem_setMem_ne s b b' _ hb, if_neg fun h => hb h.1]

theorem readReg_setMem (c : Config) (s : State) (b : Buf) (m : Memory) (r : Reg) :
    readReg c (s.setMem b m) r = readReg c s r := by
  cases b <;> cases r <;> rfl

/-- A host write to a buffer leaves the registers and the host's record (20_memory.md R61). -/
theorem hostStore_buf_frame (c : Config) (s : State) (b : Buf) (a v : Nat) :
    (∀ r, readReg c (hostStore c (.buf b) a v s) r = readReg c s r) ∧ (hostStore c (.buf b) a v s).host = s.host
      ∧ (hostStore c (.buf b) a v s).hostData = s.hostData ∧ (hostStore c (.buf b) a v s).drawn = s.drawn := by
  rcases Nat.lt_or_ge a (bufCap b) with h | h
  · rw [hostStore_buf_of_lt h]
    exact ⟨readReg_setMem c s b _, State.setMem_host .., State.setMem_hostData .., State.setMem_drawn ..⟩
  · rw [hostStore_buf_of_outside h]
    exact ⟨fun _ => rfl, rfl, rfl, rfl⟩

/-- A byte shown in 16 bits (20_memory.md R61). -/
theorem setWidth_ofNat_byte (v : Nat) : (BitVec.ofNat 8 v).setWidth 16 = BitVec.ofNat 16 (v % 256) := by
  rw [← BitVec.ofNat_toNat, BitVec.toNat_ofNat]

/-- Settles O55: past the capacity the write is none; else it is the write of one byte
(`readByte_setMem_writeBytes_one`). -/
theorem bufferWriteReadsBack : Obligations.BufferWriteReadsBack := by
  intro c s b b' a a' v
  refine ⟨fun h => ⟨hostStore_buf_of_outside h, hostView_buf_of_outside h⟩, fun h => ⟨?_, ?_, hostView_buf_of_lt h⟩, ?_⟩
  · rw [hostStore_buf_of_lt h]
    exact readByte_setMem_writeBytes_one s b b' a a' _
  · rw [hostView_buf_of_lt h, hostStore_buf_of_lt h, readByte_setMem_writeBytes_one, if_pos ⟨rfl, rfl⟩, Option.map_some,
      setWidth_ofNat_byte]
  · obtain ⟨hreg, hhost, hdata, hdrawn⟩ := hostStore_buf_frame c s b a v
    exact ⟨hreg, hhost, hdata, hdrawn, fun w => hostMove_write_of_ne fun h => nomatch h.1⟩

/-- Settles O56: a read writes the host's record only (`hostRead_eq`). -/
theorem hostReadHasNoSideEffect : Obligations.HostReadHasNoSideEffect := by
  refine fun c s sp a => ⟨hostRead_eq c sp a s, fun v hv => ?_, rfl⟩
  rw [hostRead, hv]
  exact ⟨rfl, rfl⟩

end Sys2Proof.Machine
end

section
/-! The runs from reset (70_reset_and_hazards.md R268): they end, and DONE and FAULT tell how. -/

namespace Sys2Proof.Machine

/-- Every move of the host answers a next state: it is a step of some state. -/
theorem hostMove_next (m : HostMove) (s : State) : ∃ t, hostMove params m s = .next t :=
  step_next { s with host := m :: s.host }

/-- After the CMD write of the number `r`, if there was one: on an unfaulted block DONE is 1 unless `r` is SRESET's
(70_reset_and_hazards.md R268). -/
def DoneAfter (r : Option Nat) (s : State) : Prop :=
  s.flag .fault = false → ∀ n, r = some n → n ≠ 0xFF → s.flag .done = true

/-- A CMD write other than SRESET's leaves DONE = 1 or FAULT = 1 (30_encoding.md R83). -/
theorem done_of_startCommand {n : Nat} {s t : State} (hn : n ≠ 0xFF) (h : startCommand params n s = .next t)
    (ht : t.flag .fault = false) : t.flag .done = true := by
  cases hs : s.flag .fault
  · cases hd : decodeWrite params n with
    | ok i =>
      rw [startCommand_of_decode_ok hd, execUnder_params] at h
      obtain ⟨u, hu, hdone⟩ := everyCommandCompletesOrFaults i { s with cmd := BitVec.ofNat 8 n }
      obtain rfl := Host.Outcome.next.inj (h.symm.trans hu)
      exact (hdone (decodeWrite_ne_sreset hn hd) hs).2 ht
    | error e =>
      obtain rfl := Host.Outcome.next.inj (h.symm.trans (startCommand_of_decode_error hd hs))
      simp [flag_faulted] at ht
  · obtain rfl := Host.Outcome.next.inj (h.symm.trans (faultedBlockIgnoresCommands params n s hs hn))
    exact absurd (hs.symm.trans ht) (by decide)

theorem cmd_eq_of_readReg {s t : State} (h : readReg params t .cmd = readReg params s .cmd) : t.cmd = s.cmd := by
  have hwide : t.cmd.setWidth 16 = s.cmd.setWidth 16 := Option.some.inj h
  bv_omega

/-- A move that is no reset and no CMD write: a host read, or a store that is not CMD's. -/
def IsAccess (m : HostMove) : Prop := m ≠ .reset ∧ ∀ v, m ≠ .write .reg 0x30 v

/-- Host accesses leave STATUS and CMD (20_memory.md R64, 10_state.md R29, R31). -/
theorem IsAccess.keeps {m : HostMove} {s t : State} (hm : IsAccess m) (h : hostMove params m s = .next t) :
    t.status = s.status ∧ t.cmd = s.cmd := by
  obtain ⟨hreset, hcmd⟩ := hm
  cases m with
  | reset => exact absurd rfl hreset
  | read sp a =>
    obtain rfl := Host.Outcome.next.inj h
    rw [hostRead_eq]
    exact ⟨rfl, rfl⟩
  | write sp a v =>
    have hne : ¬ (sp = .reg ∧ a = regIndex .cmd) := fun hc => hcmd v (by rw [hc.1, hc.2]; rfl)
    obtain rfl := Host.Outcome.next.inj ((hostMove_write_of_ne hne).symm.trans h)
    refine ⟨(hostStore_status params sp a _ s).1, ?_⟩
    cases sp with
    | buf b =>
      exact cmd_eq_of_readReg ((hostStore_buf_frame params s b a (hostNumber s v)).1 .cmd)
    | reg =>
      unfold hostStore
      cases hr : regAt a with
      | none => rfl
      | some r =>
        have hr' : r ≠ .cmd := fun e => hne ⟨rfl, (regIndex_of_regAt hr ▸ e ▸ rfl)⟩
        exact cmd_eq_of_readReg ((readReg_writeReg r .cmd s (hostNumber s v)).trans (if_neg hr'.symm))

/-- The number of the last CMD write after the move `m` on `s`, `r` before it (70_reset_and_hazards.md R268). -/
def lastNumber (m : HostMove) (s : State) (r : Option Nat) : Option Nat :=
  match m with
  | .write sp a v => if sp = .reg ∧ a = 0x30 then some (hostNumber s v) else r
  | .read _ _ => r
  | .reset => none

theorem lastCommand_cons {m : HostMove} {s t : State} (h : hostMove params m s = .next t) (ms : List HostMove)
    (r : Option Nat) : lastCommand (m :: ms) s r = lastCommand ms t (lastNumber m s r) := by
  simp only [lastCommand, h]
  cases m <;> rfl

/-- One move keeps what `DoneAfter` says. -/
theorem DoneAfter.hostMove {r : Option Nat} {m : HostMove} {s t : State} (hr : DoneAfter r s)
    (h : hostMove params m s = .next t) :
    DoneAfter (lastNumber m s r) t := by
  have access (hm : IsAccess m) : DoneAfter r t := by
    have hstatus := (hm.keeps h).1
    simpa only [DoneAfter, State.flag, hstatus] using hr
  cases m with
  | read sp a => exact access ⟨nofun, nofun⟩
  | reset => exact fun _ n hn => nomatch hn
  | write sp a v =>
    simp only [lastNumber]
    split
    next hc =>
      obtain ⟨rfl, rfl⟩ := hc
      exact fun ht n hn h255 => done_of_startCommand (Option.some.inj hn ▸ h255) h ht
    next hc => exact access ⟨nofun, fun w hw => hc (by cases hw; exact ⟨rfl, rfl⟩)⟩

/-- A run ends, keeps the invariant, and leaves DONE = 1 or FAULT = 1 after its last CMD write. -/
theorem exists_runMoves (ms : List HostMove) {s : State} {r : Option Nat} (h : Inv s) (hr : DoneAfter r s) :
    ∃ t, runMoves ms s = .next t ∧ Inv t ∧ DoneAfter (lastCommand ms s r) t := by
  induction ms generalizing s r with
  | nil => exact ⟨s, rfl, h, hr⟩
  | cons m ms ih =>
    obtain ⟨u, hu⟩ := hostMove_next m s
    simp only [runMoves, hu, lastCommand_cons hu]
    exact ih (h.hostMove hu) (hr.hostMove hu)

/-- A run of two parts is the second from where the first ends. -/
theorem runMoves_append {ms ms' : List HostMove} {s t : State} (h : runMoves ms s = .next t) :
    runMoves (ms ++ ms') s = runMoves ms' t := by
  induction ms generalizing s with
  | nil =>
    obtain rfl := Host.Outcome.next.inj h
    rfl
  | cons m ms ih =>
    obtain ⟨u, hu⟩ := hostMove_next m s
    simp only [List.cons_append, runMoves, hu] at h ⊢
    exact ih h

/-- A run of host accesses leaves STATUS and CMD. -/
theorem runMoves_keeps {ms : List HostMove} (hms : ∀ m ∈ ms, IsAccess m) {s t : State} (h : runMoves ms s = .next t) :
    t.status = s.status ∧ t.cmd = s.cmd := by
  induction ms generalizing s with
  | nil =>
    obtain rfl := Host.Outcome.next.inj h
    exact ⟨rfl, rfl⟩
  | cons m ms ih =>
    obtain ⟨u, hu⟩ := hostMove_next m s
    simp only [runMoves, hu] at h
    obtain ⟨h1, h2⟩ := (hms m List.mem_cons_self).keeps hu
    obtain ⟨h3, h4⟩ := ih (fun m hm => hms m (List.mem_cons_of_mem _ hm)) h
    exact ⟨h3.trans h1, h4.trans h2⟩

/-- Settles O49: runs end (`exists_runMoves`), FAULT tells the two outcomes apart, and accesses after the last CMD write
leave STATUS and CMD (`runMoves_keeps`). -/
theorem everyRunEndsCompletedOrFaulted : Obligations.EveryRunEndsCompletedOrFaulted := by
  refine ⟨fun ms => ?_, fun ms rest v s t hs hv hrest ht hfault => ?_⟩
  · obtain ⟨t, ht, hinv, hdone⟩ := exists_runMoves ms (r := none) resetSatisfiesInv fun _ n hn => nomatch hn
    refine ⟨t, ht, hinv, ?_⟩
    cases hf : t.flag .fault
    · exact .inl ⟨⟨ht, hf, hdone hf⟩, fun h => absurd (h.2.symm.trans hf) (by decide)⟩
    · exact .inr ⟨⟨ht, hf⟩, fun h => absurd (h.2.1.symm.trans hf) (by decide)⟩
  · obtain ⟨u, hu⟩ := hostMove_next (.write .reg 0x30 v) s
    rw [runMoves_append hs, runMoves, hu] at ht
    obtain ⟨hstatus, hcmd⟩ := runMoves_keeps hrest ht
    rw [State.flag, hstatus] at hfault ⊢
    rw [hcmd]
    exact ⟨done_of_startCommand hv hu hfault, startCommand_cmd hv hu⟩

end Sys2Proof.Machine
end

section
/-! What no command reads (10_state.md R28, 44_neighbour_units.md R224): with other values in the result registers and in
FIXGCR every rule makes the same checks and the same writes. -/

namespace Sys2Proof.Machine

/-- The registers that no command reads: the result registers and FIXGCR (10_state.md R28, 44_neighbour_units.md R224). -/
structure Unread where
  res : Word
  outlen : Word
  padbits : Word
  err : Byte
  tag : Byte
  valid : BitVec 3
  strat : BitVec 2
  fixgcr : BitVec 3

/-- The values of a state's unread registers. -/
def State.unread (s : State) : Unread :=
  ⟨s.res, s.outlen, s.padbits, s.err, s.tag, s.valid, s.strat, s.fixgcr⟩

/-- The state with other values in the unread registers. -/
def State.withUnread (s : State) (o : Unread) : State :=
  { s with
    res := o.res, outlen := o.outlen, padbits := o.padbits, err := o.err, tag := o.tag, valid := o.valid
    strat := o.strat, fixgcr := o.fixgcr }

/-- `o` with the result registers that `w` names taken from `o'`. -/
def Unread.overwrite (o : Unread) (w : Reg → Bool) (o' : Unread) : Unread where
  res := if w .res then o'.res else o.res
  outlen := if w .outlen then o'.outlen else o.outlen
  padbits := if w .padbits then o'.padbits else o.padbits
  err := if w .err then o'.err else o.err
  tag := if w .tag then o'.tag else o.tag
  valid := if w .valid then o'.valid else o.valid
  strat := if w .strat then o'.strat else o.strat
  fixgcr := o.fixgcr

/-- The unread registers after the command `i` has left `t`: those it writes are `t`'s. -/
def Unread.after (o : Unread) (i : Instr) (t : State) : Unread := o.overwrite (fun r => r ∈ writtenRegs i) t.unread

/-- The checks `x'` answer what `x` answer, changed by `g`. -/
def Follows (g : State → State) (x x' : Except FaultCode State) : Prop := x' = x.map g

section Follows
variable {g : State → State}

theorem Follows.error {e : FaultCode} : Follows g (.error e) (.error e) := rfl

theorem Follows.ok {t t' : State} (h : t' = g t) : Follows g (.ok t) (.ok t') := congrArg Except.ok h

theorem Follows.ite {p : Prop} [Decidable p] {x y x' y' : Except FaultCode State} (hx : Follows g x x')
    (hy : Follows g y y') : Follows g (if p then x else y) (if p then x' else y') := by
  split
  · exact hx
  · exact hy

/-- The same value read on the way. -/
theorem Follows.bind {α : Type} (x : Except FaultCode α) {f f' : α → Except FaultCode State}
    (hf : ∀ a, Follows g (f a) (f' a)) : Follows g (x >>= f) (x >>= f') := by
  cases x with
  | error e => rfl
  | ok a => exact hf a

/-- The same bytes stored on the way. -/
theorem Follows.bind_memWrite (s : State) (o : Unread) (b : Buf) (a : Nat) (l : List Byte)
    {f f' : State → Except FaultCode State} (hf : ∀ t, Follows g (f t) (f' (t.withUnread o))) :
    Follows g (memWrite s b a l >>= f) (memWrite (s.withUnread o) b a l >>= f') := by
  have hmem : (s.withUnread o).mem b = s.mem b := by cases b <;> rfl
  have hset (m : Memory) : (s.withUnread o).setMem b m = (s.setMem b m).withUnread o := by cases b <;> rfl
  simp only [memWrite, hmem, hset]
  split
  · rfl
  · exact hf _

end Follows

section Rules
variable (c : Config) (s : State) (o : Unread)

theorem searchCommand_withUnread {i : Instr} (hi : i = .fsync ∨ i = .fhdr) (find : List Byte → Option Nat) :
    Follows (fun t => t.withUnread (o.after i t)) (searchCommand find s) (searchCommand find (s.withUnread o)) := by
  have hread : ∀ b a n, memRead (s.withUnread o) b a n = memRead s b a n := fun b => memRead_congr (by cases b <;> rfl)
  refine .ite .error ?_
  rw [hread]
  refine .bind _ fun l => ?_
  cases find l <;> obtain rfl | rfl := hi <;> exact .ok rfl

theorem reduceCommand_withUnread {i : Instr} (hi : i = .redrun ∨ i = .redgap ∨ i = .reduce)
    (f : List Byte → List Byte) :
    Follows (fun t => t.withUnread (o.after i t)) (reduceCommand f s) (reduceCommand f (s.withUnread o)) := by
  refine .ite .error <| .bind (memRead s .tb 0 s.len.toNat) fun l => .bind_memWrite _ _ _ _ _ fun t => ?_
  obtain rfl | rfl | rfl := hi <;> exact .ok rfl

theorem ruleEncsec_withUnread :
    Follows (fun t => t.withUnread (o.after .encsec t)) (ruleEncsec c s) (ruleEncsec c (s.withUnread o)) := by
  refine .ite .error ?_
  show Follows _ _ (match sectorErrorOf c s.inj with | none => _ | some inj => _)
  cases sectorErrorOf c s.inj with
  | none => exact .error
  | some inj => exact .bind (memRead s .sb 0 payloadLen) fun _ => .bind_memWrite _ _ _ _ _ fun _ => .ok rfl

theorem ruleDecsec_withUnread :
    Follows (fun t => t.withUnread (o.after .decsec t)) (ruleDecsec c s) (ruleDecsec c (s.withUnread o)) :=
  .ite .error <| .bind (readWindow s) fun _ => .bind_memWrite _ _ _ _ _ fun _ => .bind_memWrite _ _ _ _ _ fun _ => .ok rfl

theorem ruleBadgcr_withUnread :
    Follows (fun t => t.withUnread (o.after .badgcr t)) (ruleBadgcr s) (ruleBadgcr (s.withUnread o)) := by
  have hread : ∀ b a n, memRead (s.withUnread o) b a n = memRead s b a n := fun b => memRead_congr (by cases b <;> rfl)
  refine .ite .error ?_
  rw [hread, hread]
  exact .bind _ fun _ => .bind _ fun _ => .ok rfl

theorem ruleSyncflg_withUnread :
    Follows (fun t => t.withUnread (o.after .syncflg t)) (ruleSyncflg c s) (ruleSyncflg c (s.withUnread o)) := by
  have hread : ∀ b a n, memRead (s.withUnread o) b a n = memRead s b a n := fun b => memRead_congr (by cases b <;> rfl)
  refine .ite .error ?_
  rw [hread]
  exact .bind _ fun _ => .ok rfl

theorem ruleCycdet_withUnread :
    Follows (fun t => t.withUnread (o.after .cycdet t)) (ruleCycdet s) (ruleCycdet (s.withUnread o)) := by
  unfold ruleCycdet
  simp only [State.withUnread, State.zone]
  split
  · exact .ite .error <| .ite .error <| .ite .error <| .bind (memRead s .tb 0 s.len.toNat) fun _ => .ok rfl
  · exact .error

theorem ruleIsshift_withUnread :
    Follows (fun t => t.withUnread (o.after .isshift t)) (ruleIsshift s) (ruleIsshift (s.withUnread o)) :=
  .bind (readWindow s) fun _ => .ok rfl

theorem ruleAlignbs_withUnread :
    Follows (fun t => t.withUnread (o.after .alignbs t)) (ruleAlignbs s) (ruleAlignbs (s.withUnread o)) :=
  .bind (readWindow s) fun _ => .bind_memWrite _ _ _ _ _ fun _ => .ok rfl

theorem ruleAlignsel_withUnread :
    Follows (fun t => t.withUnread (o.after .alignsel t)) (ruleAlignsel c s) (ruleAlignsel c (s.withUnread o)) := by
  refine .ite .error ?_
  show Follows _ _ (match overrideOf s.alignovr with | none => _ | some v => _)
  cases overrideOf s.alignovr with
  | none => exact .error
  | some v =>
    exact .ite .error <| .bind (readWindow s) fun _ =>
      .bind_memWrite _ _ _ _ _ fun _ => .bind_memWrite _ _ _ _ _ fun _ => .ok rfl

/-- A rule but SRESET's does the same with other values in the unread registers, and leaves those it does not write. -/
theorem ruleUnder_withUnread {i : Instr} (hi : i ≠ .sreset) :
    Follows (fun t => t.withUnread (o.after i t)) (ruleUnder c i s) (ruleUnder c i (s.withUnread o)) := by
  cases i with
  | nop | enc4 | dec4 => exact .ok rfl
  | encsec => exact ruleEncsec_withUnread c s o
  | decsec => exact ruleDecsec_withUnread c s o
  | fsync => exact searchCommand_withUnread s o (.inl rfl) _
  | fhdr => exact searchCommand_withUnread s o (.inr rfl) _
  | badgcr => exact ruleBadgcr_withUnread s o
  | syncflg => exact ruleSyncflg_withUnread c s o
  | cycdet => exact ruleCycdet_withUnread s o
  | isshift => exact ruleIsshift_withUnread s o
  | alignbs => exact ruleAlignbs_withUnread s o
  | alignsel => exact ruleAlignsel_withUnread c s o
  | redrun => exact reduceCommand_withUnread s o (.inl rfl) _
  | redgap => exact reduceCommand_withUnread s o (.inr (.inl rfl)) _
  | reduce => exact reduceCommand_withUnread s o (.inr (.inr rfl)) _
  | sreset => exact absurd rfl hi

end Rules

/-! ### The commands -/

/-- The result registers that a command writes when it completes, `t` its next state. -/
def writesResult (i : Instr) (t : State) (r : Reg) : Bool := t.flag .fault = false ∧ r ∈ writtenRegs i

/-- With other values in the unread registers a command does the same and leaves those it does not write. -/
theorem exec_withUnread {i : Instr} (hi : i ≠ .sreset) {s t : State} (h : exec i s = .next t) (o : Unread) :
    exec i (s.withUnread o) = .next (t.withUnread (o.overwrite (writesResult i t) t.unread)) := by
  have hflag : (s.withUnread o).flag .fault = s.flag .fault := rfl
  have hunwritten (ht : t.flag .fault = true) : o.overwrite (writesResult i t) t.unread = o := by
    have hw : writesResult i t = fun _ => false := by funext r; simp [writesResult, ht]
    rw [hw]
    rfl
  have hrule := ruleUnder_withUnread params (s.setFlag .done false) o hi
  rw [exec_eq_runCommand hi]
  obtain ⟨hs, e⟩ | ⟨hs, c, hc, e⟩ | ⟨hs, u, hu, e⟩ := exec_cases hi s <;>
    obtain rfl := Host.Outcome.next.inj (h.symm.trans e)
  · rw [hunwritten hs]
    exact runCommand_of_fault hs
  · rw [hunwritten (flag_faulted _ _ _)]
    rw [hc] at hrule
    exact runCommand_of_error (s := s.withUnread o) hs hrule
  · have hw : writesResult i (u.setFlag .done true) = fun r => r ∈ writtenRegs i := by
      funext r
      simp [writesResult, flag_fault_of_completed hi hs hu]
    rw [hu] at hrule
    rw [hw]
    exact runCommand_of_ok (s := s.withUnread o) hs hrule

/-- A command leaves the unread registers that it does not write (10_state.md R28). -/
theorem exec_unread {i : Instr} (hi : i ≠ .sreset) {s t : State} (h : exec i s = .next t) :
    t.unread = s.unread.overwrite (writesResult i t) t.unread := by
  have hself : exec i s = .next (t.withUnread (s.unread.overwrite (writesResult i t) t.unread)) :=
    exec_withUnread hi h s.unread
  exact congrArg State.unread (Host.Outcome.next.inj (h.symm.trans hself))

/-- Settles O52: FIXGCR is one of the unread registers (`exec_withUnread`), and no command writes it. -/
theorem noCommandReadsFixgcr : Obligations.NoCommandReadsFixgcr := by
  intro i s v hi
  obtain ⟨t, h, -⟩ := everyCommandCompletesOrFaults i s
  have hunread : ({ s.unread with fixgcr := v } : Unread).overwrite (writesResult i t) t.unread =
      { t.unread with fixgcr := v } := by
    conv_rhs => rw [exec_unread hi h]
    rfl
  rw [h]
  refine (exec_withUnread hi h { s.unread with fixgcr := v }).trans ?_
  rw [hunread]
  rfl

/-- Settles O53: the result registers are unread registers (`exec_withUnread`), and no command writes FIXGCR. -/
theorem resultRegistersAreOutputsOnly : Obligations.ResultRegistersAreOutputsOnly := by
  intro i s t vRes vOut vPad vErr vTag vVal vStrat w hi h hw
  have hw : writesResult i t = w := funext fun r => Bool.eq_iff_iff.2 (by rw [writesResult, decide_eq_true_iff, hw])
  have hfix : t.fixgcr = s.fixgcr := congrArg Unread.fixgcr (exec_unread hi h)
  refine (exec_withUnread hi h ⟨vRes, vOut, vPad, vErr, vTag, vVal, vStrat, s.fixgcr⟩).trans ?_
  rw [hw, ← hfix]
  rfl

end Sys2Proof.Machine
end

section
/-! The round trip of a GCR group (40_gcr_codec.md R106): a group of table codes decodes to the bytes it encodes, alone
and in a stream. -/

namespace Sys2Proof.Machine

/-- The eight codes of a group, in stream order (40_gcr_codec.md R104). -/
theorem groupCode_append (q0 q1 q2 q3 q4 q5 q6 q7 : BitVec 5) :
    (List.range 8).map (groupCode (q0 ++ q1 ++ q2 ++ q3 ++ q4 ++ q5 ++ q6 ++ q7)) = [q0, q1, q2, q3, q4, q5, q6, q7] := by
  have first (q : BitVec 5) : q.extractLsb' 0 5 = q := BitVec.extractLsb'_eq_self
  simp (disch := decide) only [show List.range 8 = [0, 1, 2, 3, 4, 5, 6, 7] from rfl, List.map_cons, List.map_nil,
    groupCode, Nat.reduceMul, Nat.reduceSub, BitVec.extractLsb'_append_eq_of_le, BitVec.extractLsb'_append_eq_right, first]

/-- Plain byte `j` of an encoded group has both its codes in the group (40_gcr_codec.md R104). -/
theorem groupCode_encGroup (p0 p1 p2 p3 : Byte) (j : Nat) (hj : j < 4) :
    groupCode (encGroup params p0 p1 p2 p3) (2 * j) = gcrCode params ([p0, p1, p2, p3][j].extractLsb' 4 4)
      ∧ groupCode (encGroup params p0 p1 p2 p3) (2 * j + 1) = gcrCode params ([p0, p1, p2, p3][j].extractLsb' 0 4) := by
  have hcodes := groupCode_append
    (gcrCode params (p0.extractLsb' 4 4)) (gcrCode params (p0.extractLsb' 0 4))
    (gcrCode params (p1.extractLsb' 4 4)) (gcrCode params (p1.extractLsb' 0 4))
    (gcrCode params (p2.extractLsb' 4 4)) (gcrCode params (p2.extractLsb' 0 4))
    (gcrCode params (p3.extractLsb' 4 4)) (gcrCode params (p3.extractLsb' 0 4))
  rw [← encGroup_eq_codes] at hcodes
  have at' (i : Nat) (hi : i < 8) := congrArg (·[i]?) hcodes
  simp only [List.getElem?_map] at at'
  interval_cases j
  · exact ⟨by simpa using at' 0, by simpa using at' 1⟩
  · exact ⟨by simpa using at' 2, by simpa using at' 3⟩
  · exact ⟨by simpa using at' 4, by simpa using at' 5⟩
  · exact ⟨by simpa using at' 6, by simpa using at' 7⟩

/-- A byte is its two nibbles. -/
theorem nibbles_append (p : Byte) : p.extractLsb' 4 4 ++ p.extractLsb' 0 4 = p := by
  have hjoin : p.extractLsb' (0 + 4) 4 ++ p.extractLsb' 0 4 = p.extractLsb' 0 8 :=
    BitVec.extractLsb'_append_extractLsb'_eq_extractLsb' rfl
  exact hjoin.trans BitVec.extractLsb'_eq_self

/-- A group decodes to the bytes it encodes (40_gcr_codec.md R106). -/
theorem plainByte_encGroup (p0 p1 p2 p3 : Byte) (j : Nat) (hj : j < 4) :
    plainByte params (encGroup params p0 p1 p2 p3) j = [p0, p1, p2, p3][j] := by
  obtain ⟨hhi, hlo⟩ := groupCode_encGroup p0 p1 p2 p3 j hj
  rw [plainByte_of_codes hhi.symm hlo.symm, nibbles_append]

/-- Every plain byte of an encoded group is valid (40_gcr_codec.md R106). -/
theorem validCount_encGroup (p0 p1 p2 p3 : Byte) : validCount params (encGroup params p0 p1 p2 p3) = 4 := by
  refine (validCount_le _ _).eq_of_not_lt fun hlt => ?_
  obtain ⟨hhi, hlo⟩ := groupCode_encGroup p0 p1 p2 p3 _ hlt
  exact absurd (plainOk_iff.2 ⟨_, _, hhi.symm, hlo.symm⟩) (by simp [plainOk_validCount hlt])

/-- Settles O13: the five bytes are the group (`groupOf_groupByte`), and the group decodes to what it encodes. -/
theorem enc4ThenDec4RoundTrips : Obligations.Enc4ThenDec4RoundTrips := by
  intro s hs
  have hs' (v : Group) : State.flag { s with
      g0 := groupByte v 0, g1 := groupByte v 1, g2 := groupByte v 2, g3 := groupByte v 3, g4 := groupByte v 4
      status := s.status ||| 0x01 } .fault = false := by
    rw [← withFlag_done_done]
    simpa [State.flag] using hs
  refine ⟨_, _, exec_enc4_of_unfaulted hs, exec_dec4_of_unfaulted (hs' _), ?_⟩
  simp only [groupOf_groupByte, validCount_encGroup]
  have hplain := plainByte_encGroup s.p0 s.p1 s.p2 s.p3
  exact ⟨hplain 0 (by decide), hplain 1 (by decide), hplain 2 (by decide), hplain 3 (by decide), rfl⟩

/-- Decoding a stream of groups gives back the bytes encoded (40_gcr_codec.md R106). -/
theorem decBytes_encBytes {l : List Byte} (h : 4 ∣ l.length) : decBytes params (encBytes params l) = l := by
  induction l using encBytes.induct with
  | case1 p0 p1 p2 p3 r ih =>
    have hr : 4 ∣ r.length := (Nat.dvd_add_left (Nat.dvd_refl 4)).1 h
    have hplain : plainBytes params (encGroup params p0 p1 p2 p3) = [p0, p1, p2, p3] := by
      simp [plainBytes, List.range_succ, plainByte_encGroup]
    rw [encBytes, groupBytes]
    simp only [List.range_succ, List.range_zero, List.nil_append, List.cons_append, List.map_cons, List.map_nil, decBytes,
      groupOf_groupByte, hplain, ih hr]
  | case2 l hl =>
    match l, hl with
    | [], _ => rfl
    | [_], _ | [_, _], _ | [_, _, _], _ => simp at h
    | p0 :: p1 :: p2 :: p3 :: r, hl => exact absurd rfl (hl p0 p1 p2 p3 r)

end Sys2Proof.Machine
end

section
/-! The bits of an encoded stream (40_gcr_codec.md R101): no code of the table lets more than eight 1 bits or two 0 bits
follow each other, so no pair of adjacent bytes begins a sync or has a bad-GCR window. -/

namespace Sys2Proof.Machine

/-! ### The bits of a vector -/

/-- The bits of a vector in stream order, the most significant first (00_scope.md R14). -/
def bits {n : Nat} (v : BitVec n) : List Bool := (List.range n).map fun k => v.getLsbD (n - 1 - k)

theorem bits_append {n m : Nat} (x : BitVec n) (y : BitVec m) : bits (x ++ y) = bits x ++ bits y := by
  have high : ∀ k ∈ List.range n, (x ++ y).getLsbD (n + m - 1 - k) = x.getLsbD (n - 1 - k) := fun k hk => by
    have := List.mem_range.1 hk
    rw [BitVec.getLsbD_append, if_neg (by omega)]
    congr 1
    omega
  have low : ∀ k ∈ List.range m, (x ++ y).getLsbD (n + m - 1 - (n + k)) = y.getLsbD (m - 1 - k) := fun k hk => by
    have := List.mem_range.1 hk
    rw [BitVec.getLsbD_append, if_pos (by omega)]
    congr 1
    omega
  rw [bits, List.range_add, List.map_append, List.map_map]
  exact congr (congrArg _ (List.map_congr_left high)) (List.map_congr_left low)

theorem bitString_cons (b : Byte) (l : List Byte) : bitString (b :: l) = bits b ++ bitString l := rfl

theorem bitString_append (l l' : List Byte) : bitString (l ++ l') = bitString l ++ bitString l' := List.flatMap_append

/-- The bytes of a group have the group's bits (40_gcr_codec.md R100). -/
theorem bitString_groupBytes (v : Group) : bitString (groupBytes v) = bits v := by
  conv_rhs => rw [← groupOf_groupByte v]
  simp only [groupOf, bits_append, List.append_assoc]
  rfl

theorem bits_byteCodes (p : Byte) :
    bits (byteCodes params p) = bits (gcrCode params (p.extractLsb' 4 4)) ++ bits (gcrCode params (p.extractLsb' 0 4)) :=
  bits_append _ _

/-! ### Runs in a bit string -/

/-- Read the bits `x` after `n` bits equal to `v`: how many of them stand at the end, or `none` as soon as there are `lim`
in a row. -/
def runScan (v : Bool) (lim : Nat) : Nat → List Bool → Option Nat
  | n, [] => some n
  | n, b :: x => if b = v then if n + 1 < lim then runScan v lim (n + 1) x else none else runScan v lim 0 x

/-- After at most `m` bits equal to `v` the bits `x` hold no `lim` in a row, and leave at most `m` at the end. -/
abbrev Limited (v : Bool) (lim m : Nat) (x : List Bool) : Prop := ∀ n ≤ m, ∃ k ≤ m, runScan v lim n x = some k

section Limited
variable {v : Bool} {lim m : Nat}

theorem runScan_append (x y : List Bool) (n : Nat) :
    runScan v lim n (x ++ y) = (runScan v lim n x).bind fun k => runScan v lim k y := by
  induction x generalizing n with
  | nil => rfl
  | cons b x ih =>
    simp only [List.cons_append, runScan, ih]
    split_ifs <;> rfl

theorem Limited.nil : Limited v lim m [] := fun n hn => ⟨n, hn, rfl⟩

theorem Limited.append {x y : List Bool} (hx : Limited v lim m x) (hy : Limited v lim m y) : Limited v lim m (x ++ y) := by
  intro n hn
  obtain ⟨k, hk, e⟩ := hx n hn
  obtain ⟨j, hj, e'⟩ := hy k hk
  exact ⟨j, hj, by rw [runScan_append, e, Option.bind_some, e']⟩

theorem runScan_lt {x : List Bool} {n k : Nat} (hn : n < lim) (h : runScan v lim n x = some k) : k < lim := by
  induction x generalizing n with
  | nil => exact Option.some.inj h ▸ hn
  | cons b x ih =>
    unfold runScan at h
    split_ifs at h with hb hlt
    · exact ih hlt h
    · exact ih (by omega) h

theorem runScan_replicate_eq_none {n j : Nat} (hn : n < lim) (hj : lim ≤ n + j) :
    runScan v lim n (List.replicate j v) = none := by
  induction j generalizing n with
  | zero => omega
  | succ j ih =>
    rw [List.replicate_succ, runScan, if_pos rfl]
    split
    next hlt => exact ih hlt (by omega)
    next => rfl

/-- Bits that the scan passes hold no `lim` bits `v` in a row. -/
theorem not_infix_of_runScan {x : List Bool} {n k : Nat} (hn : n < lim) (h : runScan v lim n x = some k) :
    ¬ List.replicate lim v <:+: x := by
  rintro ⟨s, t, rfl⟩
  rw [List.append_assoc, runScan_append] at h
  obtain ⟨j, hj, h⟩ := Option.bind_eq_some_iff.1 h
  rw [runScan_append, runScan_replicate_eq_none (runScan_lt hn hj) (Nat.le_add_left _ _)] at h
  cases h

end Limited

/-- A code of the table has at most four 1 bits and at most one 0 bit at either end, and no run is longer inside
(30_encoding.md R86). -/
theorem limited_gcrCode :
    ∀ n : BitVec 4, Limited true 9 4 (bits (gcrCode params n)) ∧ Limited false 3 1 (bits (gcrCode params n)) := by
  decide +kernel

section Stream
variable {v : Bool} {lim m : Nat} (hcode : ∀ n : BitVec 4, Limited v lim m (bits (gcrCode params n)))
include hcode

theorem limited_encGroup (p0 p1 p2 p3 : Byte) : Limited v lim m (bits (encGroup params p0 p1 p2 p3)) := by
  have hbyte (p : Byte) : Limited v lim m (bits (byteCodes params p)) := by
    rw [bits_byteCodes]
    exact (hcode _).append (hcode _)
  simp only [encGroup, bits_append]
  exact (((hbyte p0).append (hbyte p1)).append (hbyte p2)).append (hbyte p3)

/-- What no code breaks no stream of codes breaks. -/
theorem limited_encBytes (l : List Byte) : Limited v lim m (bitString (encBytes params l)) := by
  induction l using encBytes.induct with
  | case1 p0 p1 p2 p3 r ih =>
    rw [encBytes, bitString_append, bitString_groupBytes]
    exact (limited_encGroup hcode p0 p1 p2 p3).append ih
  | case2 l h =>
    rw [encBytes.eq_2 params l h]
    exact .nil

end Stream

/-- An encoded stream has at most eight 1 bits in a row (40_gcr_codec.md R101). -/
theorem limited_ones_encBytes (l : List Byte) : Limited true 9 4 (bitString (encBytes params l)) :=
  limited_encBytes (fun n => (limited_gcrCode n).1) l

/-- An encoded stream has at most two 0 bits in a row (40_gcr_codec.md R101). -/
theorem limited_zeros_encBytes (l : List Byte) : Limited false 3 1 (bitString (encBytes params l)) :=
  limited_encBytes (fun n => (limited_gcrCode n).2) l

/-! ### Pairs of adjacent bytes -/

/-- No sync begins with the bytes `a`, `b` (41_bitstream_scanner.md R141). -/
def Calm (a b : Byte) : Prop := ¬ (a.getLsbD 0 = true ∧ b = syncByte)

/-- The window of the bytes `a`, `b` is not bad (41_bitstream_scanner.md R146). -/
def Sound (a b : Byte) : Prop := windowBad a b = false

/-- A sync needs nine 1 bits in a row. -/
theorem calm_of_not_infix {a b : Byte} (h : ¬ List.replicate 9 true <:+: bits (gcrWindow a b)) : Calm a b := by
  rintro ⟨ha, rfl⟩
  refine h ⟨[a.getLsbD 1], [], ?_⟩
  have hlow : bits (a.extractLsb' 0 2) = [a.getLsbD 1, true] := by
    rw [← ha]
    simp [bits, List.range_succ]
  rw [gcrWindow, bits_append, hlow]
  rfl

/-- A bad window has three 0 bits in a row (41_bitstream_scanner.md R146). -/
theorem sound_of_not_infix {a b : Byte} (h : ¬ List.replicate 3 false <:+: bits (gcrWindow a b)) : Sound a b := by
  have key : ∀ w : BitVec 10, ((List.range 8).any fun i => (w >>> i) &&& 0b111 == 0) = true →
      List.replicate 3 false <:+: bits w := by decide +kernel
  exact Bool.eq_false_iff.2 fun hbad => h (key _ hbad)

/-- A byte is its six high bits and its two low bits. -/
theorem bits_byte_eq (b : Byte) : bits b = bits (b.extractLsb' 2 6) ++ bits (b.extractLsb' 0 2) := by
  have hjoin : b.extractLsb' (0 + 2) 6 ++ b.extractLsb' 0 2 = b.extractLsb' 0 8 :=
    BitVec.extractLsb'_append_extractLsb'_eq_extractLsb' rfl
  rw [← bits_append]
  exact congrArg bits (hjoin.trans BitVec.extractLsb'_eq_self).symm

/-- What only bits can break holds of all adjacent bytes of a list whose bits do not hold it. -/
theorem isChain_of_not_infix {R : Byte → Byte → Prop} {r : List Bool}
    (hR : ∀ a b, ¬ r <:+: bits (gcrWindow a b) → R a b) {a : Byte} {B : List Byte}
    (h : ¬ r <:+: bits (a.extractLsb' 0 2) ++ bitString B) : (a :: B).IsChain R := by
  induction B generalizing a with
  | nil => exact .singleton a
  | cons b B ih =>
    rw [bitString_cons, ← List.append_assoc] at h
    refine .cons_cons (hR a b fun hr => h (hr.trans ?_)) (ih fun hr => h (hr.trans ?_))
    · rw [gcrWindow, bits_append]
      exact (List.prefix_append _ _).isInfix
    · rw [bits_byte_eq b, List.append_assoc, List.append_assoc]
      exact ⟨bits (a.extractLsb' 0 2) ++ bits (b.extractLsb' 2 6), [], by simp⟩

/-- After a sync byte, bits with at most eight 1 bits in a row begin no sync. -/
theorem Limited.isChain_calm {B : List Byte} (h : Limited true 9 4 (bitString B)) : (syncByte :: B).IsChain Calm := by
  obtain ⟨k, -, e⟩ := h 2 (by decide)
  exact isChain_of_not_infix (fun _ _ => calm_of_not_infix) (not_infix_of_runScan (n := 0) (by decide) e)

/-- After a sync byte, bits with at most two 0 bits in a row have no bad window. -/
theorem Limited.isChain_sound {B : List Byte} (h : Limited false 3 1 (bitString B)) : (syncByte :: B).IsChain Sound := by
  obtain ⟨k, -, e⟩ := h 0 (by decide)
  exact isChain_of_not_infix (fun _ _ => sound_of_not_infix) (not_infix_of_runScan (n := 0) (by decide) e)

/-- Two adjacent bytes of a chain. -/
theorem getD_of_isChain {R : Byte → Byte → Prop} {B : List Byte} (h : B.IsChain R) {i : Nat} (hi : i + 1 < B.length) :
    R (B.getD i 0) (B.getD (i + 1) 0) := by
  rw [List.getD_eq_getElem _ _ (by omega), List.getD_eq_getElem _ _ hi]
  exact List.isChain_iff_getElem.1 h i hi

/-! ### Syncs by their last bytes -/

/-- A sync ends where a 0xFF that follows a 1 bit is followed by another byte (41_bitstream_scanner.md R141). -/
theorem syncEnd_iff {l : List Byte} {q : Nat} :
    SyncEnd l (q + 2) ↔
      q + 2 < l.length ∧ (l.getD q 0).getLsbD 0 = true ∧ l.getD (q + 1) 0 = syncByte ∧ l.getD (q + 2) 0 ≠ syncByte := by
  constructor
  · rintro ⟨i, hi, hlen, hbit, hrun, hend⟩
    refine ⟨hlen, ?_, hrun (q + 1) (by omega) (by omega), hend⟩
    rcases Nat.lt_or_ge i q with hlt | hge
    · rw [hrun q hlt (by omega)]
      decide
    · obtain rfl : i = q := by omega
      exact hbit
  · rintro ⟨hlen, hbit, hff, hend⟩
    refine ⟨q, by omega, hlen, hbit, fun k h1 h2 => ?_, hend⟩
    obtain rfl : k = q + 1 := by omega
    exact hff

theorem SyncEnd.two_le {l : List Byte} {q : Nat} (h : SyncEnd l q) : 2 ≤ q := by
  obtain ⟨i, hi, -⟩ := h
  omega

/-- A list in which no pair of bytes begins a sync has no sync. -/
theorem not_syncEnd_of_isChain {l : List Byte} (h : l.IsChain Calm) (q : Nat) : ¬ SyncEnd l q := by
  intro hq
  obtain ⟨q, rfl⟩ := Nat.exists_eq_add_of_le' hq.two_le
  obtain ⟨hlen, hbit, hff, -⟩ := syncEnd_iff.1 hq
  exact getD_of_isChain h (by omega) ⟨hbit, hff⟩

/-- A sync run holds ten 1 bits (43_bit_aligner.md R190). -/
theorem SyncRun.replicate_infix {x : List Bool} {a b : Nat} (h : SyncRun x a b) : List.replicate 9 true <:+: x := by
  have hones := h.bitCopy_one a
  have hlong : List.replicate 9 true <+: List.replicate (b - a) true :=
    List.prefix_replicate_iff.2 ⟨by simp; have := h.1; omega, by simp⟩
  refine hlong.isInfix.trans ?_
  rw [show List.replicate (b - a) true = (x.drop a).take (b - a) from hones]
  exact (List.take_prefix _ _).isInfix.trans (List.drop_suffix _ _).isInfix

/-- A window of the stream is that of two adjacent bytes of the stream written twice, the wrap included
(41_bitstream_scanner.md R146). -/
theorem badGcr_eq_false_of_isChain {B : List Byte} (h : (B ++ B).IsChain Sound) {p : Nat} (hp : p < B.length) :
    badGcr B B.length p = false := by
  have first (i : Nat) (hi : i < B.length) : (B ++ B).getD i 0 = B.getD i 0 := by
    rw [List.getD_append _ _ _ _ hi]
  have again : (B ++ B).getD B.length 0 = B.getD 0 0 := by
    rw [List.getD_append_right _ _ _ _ le_rfl, Nat.sub_self]
  have hlen : (B ++ B).length = B.length + B.length := List.length_append
  rw [badGcr, prevPos]
  split
  next h0 =>
    have hpair := getD_of_isChain h (i := B.length - 1) (by omega)
    rwa [first _ (by omega), Nat.sub_add_cancel (by omega), again, ← h0] at hpair
  next h0 =>
    have hpair := getD_of_isChain h (i := p - 1) (by omega)
    rwa [first _ (by omega), Nat.sub_add_cancel (by omega), first p hp] at hpair

/-- Settles O14: the bits of the stream have no long run (`limited_ones_encBytes`, `limited_zeros_encBytes`), written twice
for the wrap. -/
theorem encodedStreamHasNoBadGcrAndNoSync : Obligations.EncodedStreamHasNoBadGcrAndNoSync := by
  intro l
  have hones := limited_ones_encBytes l
  have hzeros := limited_zeros_encBytes l
  refine ⟨fun p hp => badGcr_eq_false_of_isChain ?_ hp, not_syncEnd_of_isChain hones.isChain_calm.tail,
    fun a b h => ?_⟩
  · refine (Limited.isChain_sound ?_).tail
    rw [bitString_append]
    exact hzeros.append hzeros
  · obtain ⟨k, -, e⟩ := hones 0 (by decide)
    exact not_infix_of_runScan (by decide) e h.replicate_infix

end Sys2Proof.Machine
end

section
/-! DECSEC (40_gcr_codec.md R120 to R125): the header search answers the first header of the track and sector, the code
and the payload by the conditions of the precedence table in their order, and what the command leaves. -/

namespace Sys2Proof.Machine

/-! ### The header search -/

/-- The header match in the default layout (30_encoding.md R88; 40_gcr_codec.md R122). -/
theorem headerAt_iff {track sector : Byte} {W : List Byte} {q : Nat} :
    HeaderAt track sector W q ↔
      SyncEnd W q ∧ q + 10 ≤ W.length ∧ headerMatches params track sector (headerAt params W q) = true := by
  simp only [HeaderAt, headerMatches, Bool.and_eq_true, beq_iff_eq, exists_eq_left, and_assoc]
  rfl

/-- What the header search answers from the cursor `p` on, `seen` saying whether a sync was seen before
(40_gcr_codec.md R122). -/
def SearchAnswer (track sector : Byte) (W : List Byte) (seen : Bool) (p : Nat) : HeaderSearch → Prop
  | .noSync => seen = false ∧ ∀ q, p < q → ¬ SyncEnd W q
  | .noHeader => (seen = true ∨ ∃ q, p < q ∧ SyncEnd W q) ∧ ∀ q, p < q → ¬ HeaderAt track sector W q
  | .found q => FirstAfter (HeaderAt track sector W) p q

section Search
variable {track sector : Byte} {W : List Byte}

/-- Past the last sync there is no header. -/
theorem SearchAnswer.of_no_sync {seen : Bool} {p : Nat} (h : ∀ q, p < q → ¬ SyncEnd W q) :
    SearchAnswer track sector W seen p (if seen then .noHeader else .noSync) := by
  cases seen
  · exact ⟨rfl, h⟩
  · exact ⟨.inl rfl, fun q hq hh => h q hq (headerAt_iff.1 hh).1⟩

/-- A sync with no header of the track and sector is passed. -/
theorem SearchAnswer.of_not {seen : Bool} {p q : Nat} {r : HeaderSearch} (hq : FirstAfter (SyncEnd W) p q)
    (hno : ¬ HeaderAt track sector W q) (h : SearchAnswer track sector W true q r) :
    SearchAnswer track sector W seen p r := by
  obtain ⟨hpq, hsync, hbetween⟩ := hq
  have upTo : ∀ k, p < k → k ≤ q → ¬ HeaderAt track sector W k := fun k h1 h2 hk => by
    rcases h2.eq_or_lt with rfl | hlt
    · exact hno hk
    · exact hbetween k h1 hlt (headerAt_iff.1 hk).1
  cases r with
  | noSync => exact absurd h.1 (by decide)
  | noHeader =>
    refine ⟨.inr ⟨q, hpq, hsync⟩, fun k hk hh => ?_⟩
    rcases Nat.lt_or_ge q k with hlt | hle
    · exact h.2 k hlt hh
    · exact upTo k hk hle hh
  | found d =>
    obtain ⟨hqd, hd, hfirst⟩ := h
    refine ⟨hpq.trans hqd, hd, fun k h1 h2 hh => ?_⟩
    rcases Nat.lt_or_ge q k with hlt | hle
    · exact hfirst k hlt h2 hh
    · exact upTo k h1 hle hh

/-- From a cursor on the loop answers the first header of the track and sector (40_gcr_codec.md R122). -/
theorem searchAnswer_headerSearchLoop {fuel p : Nat} {seen : Bool} (hfuel : W.length ≤ fuel + p) (hp : CutsNoSync W p) :
    SearchAnswer track sector W seen p (headerSearchLoop params track sector W fuel seen p) := by
  induction fuel generalizing p seen with
  | zero => exact .of_no_sync fun q hq hs => absurd hs.lt_length (by omega)
  | succ fuel ih =>
    rw [headerSearchLoop]
    split
    next hnone => exact .of_no_sync fun q hq => hp.not_syncEnd_of_fsync hnone hq
    next q hsome =>
      have hfirst := hp.firstAfter_of_fsync hsome
      obtain ⟨hpq, hsync, hbetween⟩ := id hfirst
      split_ifs with hlen hmatch
      · refine ⟨.inr ⟨q, hpq, hsync⟩, fun k hk hh => ?_⟩
        obtain ⟨hs, hkl, -⟩ := headerAt_iff.1 hh
        exact hbetween k hk (by simp only [hdrGcrLen] at hlen; omega) hs
      · exact ⟨hpq, headerAt_iff.2 ⟨hsync, Nat.not_lt.1 hlen, hmatch⟩,
          fun k h1 h2 hh => hbetween k h1 h2 (headerAt_iff.1 hh).1⟩
      · exact .of_not hfirst (fun hh => hmatch (headerAt_iff.1 hh).2.2) (ih (by omega) hsync.cutsNoSync)

variable (track sector W) in
/-- The header search over a doubled cycle (40_gcr_codec.md R122). -/
theorem searchAnswer_headerSearch : SearchAnswer track sector W false 0 (headerSearch params track sector W) :=
  searchAnswer_headerSearchLoop le_rfl (cutsNoSync_zero W)

theorem headerSearch_eq_noSync_iff : headerSearch params track sector W = .noSync ↔ ∀ q, ¬ SyncEnd W q := by
  have h := searchAnswer_headerSearch track sector W
  cases e : headerSearch params track sector W <;> rw [e] at h
  case noSync => exact iff_of_true rfl fun q hq => h.2 q hq.pos hq
  case noHeader =>
    obtain ⟨q, -, hq⟩ := h.1.resolve_left (by decide)
    exact iff_of_false nofun fun hno => hno q hq
  case found q => exact iff_of_false nofun fun hno => hno q (headerAt_iff.1 h.2.1).1

theorem headerSearch_eq_noHeader {q : Nat} (hq : SyncEnd W q) (hno : ∀ q, ¬ HeaderAt track sector W q) :
    headerSearch params track sector W = .noHeader := by
  have h := searchAnswer_headerSearch track sector W
  cases e : headerSearch params track sector W with
  | noSync =>
    rw [e] at h
    exact absurd hq (h.2 q hq.pos)
  | noHeader => rfl
  | found d =>
    rw [e] at h
    exact absurd h.2.1 (hno d)

theorem headerSearch_eq_found {q : Nat} (hq : HeaderAt track sector W q)
    (hfirst : ∀ q' < q, ¬ HeaderAt track sector W q') : headerSearch params track sector W = .found q := by
  have hpos : 0 < q := (headerAt_iff.1 hq).1.pos
  have h := searchAnswer_headerSearch track sector W
  cases e : headerSearch params track sector W <;> rw [e] at h
  case noSync => exact absurd (headerAt_iff.1 hq).1 (h.2 q hpos)
  case noHeader => exact absurd hq (h.2 q hpos)
  case found d => rw [h.unique ⟨hpos, hq, fun k _ hk => hfirst k hk⟩]

end Search

/-! ### The checks of a header and of a data block -/

/-- BADGCR of the model is the test of the ten bits (41_bitstream_scanner.md R146). -/
theorem badGcr_iff {W : List Byte} {p : Nat} : badGcr W W.length p = true ↔ BadAt W p := windowBad_iff _ _

theorem anyBadGcr_iff {W : List Byte} {q k : Nat} : anyBadGcr W q k = true ↔ ∃ j < k, BadAt W (q + j) := by
  simp only [anyBadGcr, List.any_eq_true, List.mem_range, badGcr_iff]

theorem anyBadGcr_eq_false {W : List Byte} {q k : Nat} (h : ∀ j < k, ¬ BadAt W (q + j)) : anyBadGcr W q k = false :=
  Bool.eq_false_iff.2 fun hbad => by
    obtain ⟨j, hj, hat⟩ := anyBadGcr_iff.1 hbad
    exact h j hj hat

/-- The next sync is what FSYNC answers over the rest of the cycle (40_gcr_codec.md R124). -/
theorem nextSync_iff {W : List Byte} {p d : Nat} : NextSync W p d ↔ fsync W p W.length = some d := by
  constructor
  · rintro ⟨hle, hd, hfirst⟩
    obtain ⟨k, rfl⟩ := Nat.exists_eq_add_of_le hle
    rw [fsync_eq_some_iff, List.take_length]
    rw [Nat.add_sub_cancel_left] at hd
    exact ⟨hd, fun k' hk' => by simpa using hfirst (p + k') (by omega) (by omega)⟩
  · intro h
    obtain ⟨k, rfl, -⟩ := syncEnd_of_fsync h
    rw [fsync_eq_some_iff, List.take_length] at h
    refine ⟨Nat.le_add_right p k, by simpa using h.1, fun d' h1 h2 => h.2 _ (by omega)⟩

/-- The ID test in the default layout (40_gcr_codec.md R123). -/
theorem headerIdMismatch_eq (id0 id1 : Byte) (H : List Byte) :
    headerIdMismatch params id0 id1 H = decide (H.getD 5 0 ≠ id0 ∨ H.getD 4 0 ≠ id1) := by
  have hfields : headerIdMismatch params id0 id1 H = (H.getD 5 0 != id0 || H.getD 4 0 != id1) := rfl
  rw [hfields, Bool.eq_iff_iff]
  simp only [Bool.or_eq_true, bne_iff_ne, decide_eq_true_eq]

/-- The checksum test in the default layout (40_gcr_codec.md R123). -/
theorem headerChecksumBad_iff (H : List Byte) :
    headerChecksumBad params H = true ↔ H.getD 2 0 ^^^ H.getD 3 0 ^^^ H.getD 4 0 ^^^ H.getD 5 0 ≠ H.getD 1 0 :=
  bne_iff_ne

/-! ### The result -/

section Result
variable {track sector id0 id1 : Byte} {W : List Byte}

theorem decodeSector_of_noSync (h : ∀ q, ¬ SyncEnd W q) :
    decodeSector params track sector id0 id1 W = (.syncNotFound, params.ofp) := by
  rw [decodeSector, headerSearch_eq_noSync_iff.2 h]

theorem decodeSector_of_noHeader {q : Nat} (hq : SyncEnd W q) (h : ∀ q, ¬ HeaderAt track sector W q) :
    decodeSector params track sector id0 id1 W = (.headerNotFound, params.ofp) := by
  rw [decodeSector, headerSearch_eq_noHeader hq h]

variable {q : Nat} (hq : HeaderAt track sector W q) (hfirst : ∀ q' < q, ¬ HeaderAt track sector W q')
include hq hfirst

theorem decodeSector_of_header :
    decodeSector params track sector id0 id1 W =
      if headerChecksumBad params (headerAt params W q) then (.badHeaderChecksum, params.ofp)
      else if anyBadGcr W q hdrGcrLen then (.badGcrCode, params.ofp)
      else decodeData params W q (headerIdMismatch params id0 id1 (headerAt params W q)) := by
  rw [decodeSector, headerSearch_eq_found hq hfirst]

end Result

/-- No data block follows the header (40_gcr_codec.md R124). -/
theorem decodeData_of_absent {W : List Byte} {q : Nat} (idm : Bool)
    (h : ∀ d, NextSync W (q + 10) d → W.length < d + 325) :
    decodeData params W q idm = (if idm then .idMismatch else .dataNotFound, params.ofp) := by
  cases hd : fsync W (q + hdrGcrLen) W.length with
  | none => simp only [decodeData, hd]
  | some d => simp only [decodeData, hd, if_pos (show W.length < d + dataGcrLen from h d (nextSync_iff.2 hd))]

/-- The data block after the next sync (40_gcr_codec.md R124). -/
theorem decodeData_of_next {W : List Byte} {q d : Nat} (idm : Bool) (hd : NextSync W (q + 10) d)
    (hlen : d + 325 ≤ W.length) :
    decodeData params W q idm =
      (let D := decBytes params ((W.drop d).take 325)
       (if anyBadGcr W d 325 then .badGcrCode
        else if idm then .idMismatch
        else if D.getD 0 0 ≠ dataId then .dataNotFound
        else if xorBytes ((D.drop 1).take payloadLen) ≠ D.getD 257 0 then .badDataChecksum
        else .ok, (D.drop 1).take payloadLen)) := by
  have hnext : fsync W (q + hdrGcrLen) W.length = some d := nextSync_iff.1 hd
  simp only [decodeData, hnext, if_neg (Nat.not_lt.2 hlen)]

/-- A data block follows the header or none does. -/
theorem exists_nextSync_or (W : List Byte) (p : Nat) :
    (∃ d, NextSync W p d ∧ d + 325 ≤ W.length) ∨ ∀ d, NextSync W p d → W.length < d + 325 :=
  or_iff_not_imp_left.2 fun h d hd => Nat.not_le.1 fun hle => h ⟨d, hd, hle⟩

/-- No condition but the first gives SyncNotFound (40_gcr_codec.md R125). -/
theorem decodeData_ne_syncNotFound (W : List Byte) (q : Nat) (idm : Bool) :
    (decodeData params W q idm).1 ≠ .syncNotFound := by
  obtain ⟨d, hd, hlen⟩ | h := exists_nextSync_or W (q + 10)
  · rw [decodeData_of_next idm hd hlen]
    simp only
    split_ifs <;> exact nofun
  · rw [decodeData_of_absent idm h]
    cases idm <;> exact nofun

theorem ofp_length : params.ofp.length = 256 := by
  have hofp : params.ofp = 0x4B :: List.replicate 255 0x01 := rfl
  rw [hofp, List.length_cons, List.length_replicate]

/-- Settles O17: the search answers no sync exactly where there is none (`headerSearch_eq_noSync_iff`), and no later
condition gives that code. -/
theorem syncNotFoundMeansNoSync : Obligations.SyncNotFoundMeansNoSync := by
  intro track sector id0 id1 W
  refine ⟨⟨fun h => (headerSearch_eq_noSync_iff (track := track) (sector := sector)).1 ?_,
    fun h => by rw [decodeSector_of_noSync h]⟩, fun h => by rw [decodeSector_of_noSync h]; rfl⟩
  unfold decodeSector at h
  split at h
  next e => exact e
  next => cases h
  next q _ =>
    simp only at h
    split_ifs at h
    exact absurd h (decodeData_ne_syncNotFound W q _)

/-- Settles O18: the header search (`headerSearch_eq_found` and its like), then the checks in the order of `decodeSector`. -/
theorem decsecReportsTheFirstCondition : Obligations.DecsecReportsTheFirstCondition := by
  rintro track sector id0 id1 W filler r rfl rfl
  refine ⟨fun h => decodeSector_of_noSync h, fun ⟨q, hq⟩ h => decodeSector_of_noHeader hq h, ?_⟩
  rintro q H hq hfirst rfl
  have hH : headerAt params W q = decBytes params ((W.drop q).take 10) := rfl
  rw [decodeSector_of_header hq hfirst, hH]
  refine ⟨fun hck => if_pos ((headerChecksumBad_iff _).2 hck), fun hck => ?_⟩
  rw [if_neg fun h => (headerChecksumBad_iff _).1 h hck]
  refine ⟨fun hbad => if_pos (anyBadGcr_iff.2 hbad), fun hgood => ?_⟩
  have hidm := headerIdMismatch_eq id0 id1 (decBytes params ((W.drop q).take 10))
  rw [if_neg (by simp [anyBadGcr_eq_false hgood])]
  refine ⟨fun habsent => ?_, ?_⟩
  · rw [decodeData_of_absent _ habsent, hidm]
    simp only [decide_eq_true_eq]
    rfl
  · rintro d D hd hlen rfl
    rw [decodeData_of_next _ hd hlen]
    refine ⟨rfl, fun hbad => if_pos (anyBadGcr_iff.2 hbad), fun hgood => ?_⟩
    simp only [anyBadGcr_eq_false hgood, hidm, decide_eq_true_eq, Bool.false_eq_true, if_false]

/-! ### The command -/

/-- Every five GCR bytes are four plain bytes (40_gcr_codec.md R104). -/
theorem decBytes_length (c : Config) (l : List Byte) : (decBytes c l).length = 4 * (l.length / 5) := by
  induction l using decBytes.induct with
  | case1 g0 g1 g2 g3 g4 r ih =>
    rw [decBytes, List.length_append, ih]
    simp only [plainBytes, List.length_map, List.length_range, List.length_cons]
    omega
  | case2 l h =>
    match l, h with
    | [], _ | [_], _ | [_, _], _ | [_, _, _], _ | [_, _, _, _], _ => simp [decBytes]
    | g0 :: g1 :: g2 :: g3 :: g4 :: r, h => exact absurd rfl (h g0 g1 g2 g3 g4 r)

/-- The payload of a data block has 256 bytes, and so has the filler (40_gcr_codec.md R125). -/
theorem decodeData_length (W : List Byte) (q : Nat) (idm : Bool) : (decodeData params W q idm).2.length = 256 := by
  obtain ⟨d, hd, hlen⟩ | h := exists_nextSync_or W (q + 10)
  · rw [decodeData_of_next idm hd hlen]
    simp only [payloadLen, List.length_take, List.length_drop, decBytes_length]
    omega
  · rw [decodeData_of_absent idm h]
    exact ofp_length

theorem decodeSector_length (track sector id0 id1 : Byte) (W : List Byte) :
    (decodeSector params track sector id0 id1 W).2.length = 256 := by
  unfold decodeSector
  split
  next => exact ofp_length
  next => exact ofp_length
  next q _ =>
    simp only
    split_ifs
    · exact ofp_length
    · exact ofp_length
    · exact decodeData_length W q _

section Decsec
variable {s : State} (hcycl : s.cycl ≠ 0)
include hcycl

theorem ruleDecsec_of_window_fault {e : FaultCode} (h : readWindow s = .error e) : ruleDecsec params s = .error e := by
  rw [ruleDecsec, if_neg hcycl]
  exact bind_error_iff.2 (.inl h)

/-- DECSEC on a written window (40_gcr_codec.md R120). -/
theorem ruleDecsec_of_written {C : List Byte} {r : SectorError × List Byte} (hfits : s.cycs.toNat + s.cycl.toNat ≤ 8192)
    (hC : readBytes s.tb s.cycs.toNat s.cycl.toNat = some C)
    (hr : decodeSector params s.track s.sector s.id0 s.id1 (C ++ C) = r) :
    ruleDecsec params s = .ok { s with
      wb := writeBytes s.wb 0 (C ++ C), sb := writeBytes s.sb 0 r.2, err := defaultErrNumber r.1 } := by
  subst hr
  have hlen := readBytes_length hC
  rw [ruleDecsec, if_neg hcycl]
  refine bind_ok_iff.2 ⟨C, readWindow_of_written hfits hC, bind_ok_iff.2 ⟨_, memWrite_ok_iff.2 ⟨.inr ?_, rfl⟩,
    bind_ok_iff.2 ⟨_, memWrite_ok_iff.2 ⟨.inr ?_, rfl⟩, rfl⟩⟩⟩
  · simp only [List.length_append, bufCap, wbCap]
    omega
  · rw [decodeSector_length]
    exact le_rfl

end Decsec

/-- DECSEC on a written window, on an unfaulted block (40_gcr_codec.md R120). -/
theorem exec_decsec_of_written {s : State} {C : List Byte} {r : SectorError × List Byte} (hs : s.flag .fault = false)
    (hcycl : s.cycl ≠ 0) (hfits : s.cycs.toNat + s.cycl.toNat ≤ 8192)
    (hC : readBytes s.tb s.cycs.toNat s.cycl.toNat = some C)
    (hr : decodeSector params s.track s.sector s.id0 s.id1 (C ++ C) = r) :
    exec .decsec s = .next { s with
      wb := writeBytes s.wb 0 (C ++ C), sb := writeBytes s.sb 0 r.2, err := defaultErrNumber r.1
      status := s.status ||| 0x01 } := by
  rw [← withFlag_done_done]
  exact runCommand_of_ok hs (ruleDecsec_of_written (s := s.setFlag .done false) hcycl hfits hC hr)

/-- Settles O16: the completion of `exec_decsec_of_written`; the payload has 256 bytes (`decodeSector_length`). -/
theorem decsecStoresItsResult : Obligations.DecsecStoresItsResult := fun _ _ hs hcycl hfits hC =>
  ⟨_, exec_decsec_of_written hs hcycl hfits hC rfl, rfl, rfl, decodeSector_length _ _ _ _ _, stored_writeBytes _ _ _,
    stored_writeBytes _ _ _⟩

end Sys2Proof.Machine
end

section
/-! The sector image written twice (40_gcr_codec.md R110, R111, R127): where its syncs end, what its header and its data
block decode to, and the code DECSEC reports for each injected error. -/

namespace Sys2Proof.Machine

/-! ### Encoded parts -/

/-- Whole groups are encoded one after the other (40_gcr_codec.md R100). -/
theorem encBytes_append {l : List Byte} (l' : List Byte) (h : 4 ∣ l.length) :
    encBytes params (l ++ l') = encBytes params l ++ encBytes params l' := by
  induction l using encBytes.induct with
  | case1 p0 p1 p2 p3 r ih =>
    have hr : 4 ∣ r.length := (Nat.dvd_add_left (Nat.dvd_refl 4)).1 h
    simp only [List.cons_append, encBytes, ih hr, List.append_assoc]
  | case2 l hl =>
    match l, hl with
    | [], _ => rfl
    | [_], _ | [_, _], _ | [_, _, _], _ => simp at h
    | p0 :: p1 :: p2 :: p3 :: r, hl => exact absurd rfl (hl p0 p1 p2 p3 r)

theorem limited_replicate {v : Bool} {lim m : Nat} {b : Byte} (h : Limited v lim m (bits b)) (n : Nat) :
    Limited v lim m (bitString (List.replicate n b)) := by
  induction n with
  | zero => exact .nil
  | succ n ih => exact h.append ih

/-- The gap byte breaks no run limit (30_encoding.md R93). -/
theorem limited_ones_gap (n : Nat) : Limited true 9 4 (bitString (List.replicate n 0x55)) :=
  limited_replicate (by decide +kernel) n

/-- The data block begins no sync, its second group zeroed or not (40_gcr_codec.md R111). -/
theorem limited_ones_dataGcr (e : SectorError) {pay : List Byte} (h : pay.length = 256) :
    Limited true 9 4 (bitString (dataGcr params e pay)) := by
  unfold dataGcr
  simp only
  split
  next =>
    have hD : (dataPlain params e pay).length = 260 := by simp [dataPlain, h]
    generalize dataPlain params e pay = D at hD
    have hsplit : encBytes params D =
        encBytes params (D.take 4) ++ (encBytes params ((D.drop 4).take 4) ++ encBytes params (D.drop 8)) := by
      rw [← encBytes_append (l := (D.drop 4).take 4) _ (by simp [hD]), show D.drop 8 = (D.drop 4).drop 4 by simp,
        List.take_append_drop, ← encBytes_append (l := D.take 4) _ (by simp [hD]), List.take_append_drop]
    have h1 : (encBytes params (D.take 4)).length = 5 := by simp [encBytes_length, hD]
    have h2 : (encBytes params ((D.drop 4).take 4)).length = 5 := by simp [encBytes_length, hD]
    rw [hsplit, List.take_left' h1, ← List.append_assoc, List.drop_left' (by simp [h1, h2]), bitString_append,
      bitString_append]
    exact ((limited_ones_encBytes _).append (limited_replicate (by decide +kernel) 5)).append (limited_ones_encBytes _)
  next => exact limited_ones_encBytes _

/-! ### A sync and what follows it -/

/-- A sync run of the image and the bytes after it (30_encoding.md R93). -/
def syncBlock (R : List Byte) : List Byte := List.replicate 5 syncByte ++ R

theorem syncBlock_length (R : List Byte) : (syncBlock R).length = 5 + R.length := List.length_append

theorem syncBlock_getD_sync {R : List Byte} (S : List Byte) {k : Nat} (h : k < 5) :
    (syncBlock R ++ S).getD k 0 = syncByte := by
  rw [List.getD_append _ _ _ _ (by rw [syncBlock_length]; omega), syncBlock, List.getD_append _ _ _ _ (by simpa using h),
    List.getD_replicate _ h]

/-- From its last 0xFF on a sync block is that byte and what follows. -/
theorem syncBlock_getD_succ {R : List Byte} (S : List Byte) {k : Nat} (h : k ≤ R.length) :
    (syncBlock R ++ S).getD (4 + k) 0 = (syncByte :: R).getD k 0 := by
  have hsplit : syncBlock R = List.replicate 4 syncByte ++ (syncByte :: R) := rfl
  rw [List.getD_append _ _ _ _ (by rw [syncBlock_length]; omega), hsplit, List.getD_append_right _ _ _ _ (by simp)]
  simp

theorem syncBlock_getD_after {R : List Byte} (S : List Byte) (k : Nat) :
    (syncBlock R ++ S).getD (5 + R.length + k) 0 = S.getD k 0 := by
  rw [List.getD_append_right _ _ _ _ (by rw [syncBlock_length]; omega), syncBlock_length, Nat.add_sub_cancel_left]

section SyncBlock
variable {R : List Byte} (S : List Byte)

theorem le_of_syncEnd_syncBlock {q : Nat} (h : SyncEnd (syncBlock R ++ S) q) : 5 ≤ q := by
  by_contra hlt
  exact h.getD_ne (syncBlock_getD_sync S (by omega))

variable (hR : (syncByte :: R).IsChain Calm)
include hR

/-- After a sync the bytes of a block begin with another byte than 0xFF. -/
theorem syncEnd_syncBlock (hne : 0 < R.length) : SyncEnd (syncBlock R ++ S) 5 := by
  refine syncEnd_iff.2 ⟨by simp only [List.length_append, syncBlock_length]; omega, ?_, ?_, ?_⟩
  · rw [syncBlock_getD_sync S (by decide)]
    decide
  · exact syncBlock_getD_sync S (by decide)
  · rw [syncBlock_getD_succ (k := 1) S hne]
    exact fun hff => getD_of_isChain hR (i := 0) (by simpa using hne) ⟨by simp, hff⟩

/-- The syncs of a block and what follows it, if that starts with a sync, are the block's and those that follow. -/
theorem syncEnd_syncBlock_append {q : Nat} (hS : ∀ k < 2, S.getD k 0 = syncByte ∨ S = []) (h : SyncEnd (syncBlock R ++ S) q) :
    q = 5 ∨ ∃ q', SyncEnd S q' ∧ q = 5 + R.length + q' := by
  have h5 := le_of_syncEnd_syncBlock S h
  obtain ⟨k, rfl⟩ := Nat.exists_eq_add_of_le' h.two_le
  obtain ⟨hlen, hbit, hff, hend⟩ := syncEnd_iff.1 h
  rcases Nat.lt_or_ge (k + 1) (5 + R.length) with hlt | hge
  · refine .inl ?_
    by_contra hne
    obtain ⟨j, rfl⟩ := Nat.exists_eq_add_of_le (show 4 ≤ k by omega)
    rw [syncBlock_getD_succ S (by omega)] at hbit
    rw [Nat.add_assoc, syncBlock_getD_succ S (by omega)] at hff
    exact getD_of_isChain hR (by simp only [List.length_cons]; omega) ⟨hbit, hff⟩
  · refine .inr ?_
    obtain ⟨j, hj⟩ := Nat.exists_eq_add_of_le hge
    rw [show k + 2 = 5 + R.length + (j + 1) by omega, syncBlock_getD_after] at hend
    have hlen' : j + 1 < S.length := by simp only [List.length_append, syncBlock_length] at hlen; omega
    cases j with
    | zero => exact absurd ((hS 1 (by decide)).resolve_right (by rintro rfl; simp at hlen')) hend
    | succ j =>
      rw [show k = 5 + R.length + j by omega, syncBlock_getD_after] at hbit
      rw [show k + 1 = 5 + R.length + (j + 1) by omega, syncBlock_getD_after] at hff
      exact ⟨j + 2, syncEnd_iff.2 ⟨hlen', hbit, hff, hend⟩, by omega⟩

end SyncBlock

/-- Where the bytes of a block begin with bytes without a bad window, these have none in the cycle (40_gcr_codec.md R123). -/
theorem not_badAt_syncBlock (P S : List Byte) {B R : List Byte} (h : (syncByte :: B).IsChain Sound) {j : Nat}
    (hj : j < B.length) : ¬ BadAt (P ++ (syncBlock (B ++ R) ++ S)) (P.length + 5 + j) := by
  have hbyte (k : Nat) (hk : k ≤ B.length) :
      (P ++ (syncBlock (B ++ R) ++ S)).getD (P.length + 4 + k) 0 = (syncByte :: B).getD k 0 := by
    rw [List.getD_append_right _ _ _ _ (by omega), show P.length + 4 + k - P.length = 4 + k by omega,
      syncBlock_getD_succ S (by rw [List.length_append]; omega)]
    exact List.getD_append (syncByte :: B) R _ _ (by simp only [List.length_cons]; omega)
  rw [← badGcr_iff, badGcr, prevPos, if_neg (by omega), show P.length + 5 + j - 1 = P.length + 4 + j by omega,
    hbyte j hj.le, show P.length + 5 + j = P.length + 4 + (j + 1) by omega, hbyte (j + 1) hj]
  have hsound := getD_of_isChain h (i := j) (by simpa using hj)
  exact Bool.eq_false_iff.1 hsound

theorem drop_syncBlock (P R S : List Byte) : (P ++ (syncBlock R ++ S)).drop (P.length + 5) = R ++ S := by
  rw [List.drop_append, List.drop_of_length_le (by omega), Nat.add_sub_cancel_left, List.nil_append, syncBlock,
    List.append_assoc]
  rfl

/-- The header of a block is what was encoded (40_gcr_codec.md R122). -/
theorem headerAt_syncBlock {W P R S H : List Byte} {q : Nat} (hW : W = P ++ (syncBlock (encBytes params H ++ R) ++ S))
    (hq : q = P.length + 5) (hH : H.length = 8) : headerAt params W q = H := by
  subst hW hq
  have hlen : (encBytes params H).length = hdrGcrLen := by rw [encBytes_length, hH]
  rw [headerAt, drop_syncBlock, List.append_assoc, List.take_left' hlen, decBytes_encBytes (by rw [hH]; decide)]

/-! ### The cycle written twice -/

/-- The header `H` encoded, and its gap (30_encoding.md R93). -/
def headerPart (H : List Byte) : List Byte := encBytes params H ++ List.replicate 9 0x55

/-- The header part begins no sync. -/
theorem headerPart_calm (H : List Byte) : (syncByte :: headerPart H).IsChain Calm := by
  refine Limited.isChain_calm ?_
  rw [headerPart, bitString_append]
  exact (limited_ones_encBytes H).append (limited_ones_gap 9)

/-- A sector image with the header `H` and the GCR bytes `G` of a data block, written twice (40_gcr_codec.md R120). -/
def doubledImage (H G : List Byte) : List Byte :=
  syncBlock (headerPart H) ++ (syncBlock G ++ (syncBlock (headerPart H) ++ syncBlock G))

section Doubled
variable {H G : List Byte} (hH : H.length = 8)
include hH

theorem headerPart_length : (headerPart H).length = 19 := by
  rw [headerPart, List.length_append, encBytes_length, hH, List.length_replicate]

/-- The first sync of the image (40_gcr_codec.md R122). -/
theorem syncEnd_doubledImage : SyncEnd (doubledImage H G) 5 :=
  syncEnd_syncBlock _ (headerPart_calm H) (by rw [headerPart_length hH]; decide)

/-- The header after the first sync and its copy (40_gcr_codec.md R122). -/
theorem headerAt_doubledImage : headerAt params (doubledImage H G) 5 = H :=
  headerAt_syncBlock (P := []) rfl rfl hH

theorem header_not_badAt : ∀ j < 10, ¬ BadAt (doubledImage H G) (5 + j) := by
  have hlen : (encBytes params H).length = 10 := by rw [encBytes_length, hH]
  intro j hj
  have hbad := not_badAt_syncBlock [] (R := List.replicate 9 0x55)
    (syncBlock G ++ (syncBlock (headerPart H) ++ syncBlock G)) (limited_zeros_encBytes H).isChain_sound (hlen ▸ hj)
  rwa [List.length_nil, Nat.zero_add] at hbad

variable (hG : G.length = 325)
include hG

theorem doubledImage_length : (doubledImage H G).length = 708 := by
  simp only [doubledImage, List.length_append, syncBlock_length, headerPart_length hH, hG]

section Header
variable {track sector : Byte} (hid : H.getD 0 0 = 0x08) (hsector : H.getD 2 0 = sector) (htrack : H.getD 3 0 = track)
include hid hsector htrack

/-- The search finds the header of the image (40_gcr_codec.md R122). -/
theorem headerAt_first : HeaderAt track sector (doubledImage H G) 5
    ∧ ∀ q < 5, ¬ HeaderAt track sector (doubledImage H G) q := by
  refine ⟨⟨syncEnd_doubledImage hH, by rw [doubledImage_length hH hG]; decide, H, (headerAt_doubledImage hH).symm, hid,
    hsector, htrack⟩, fun q hq h => ?_⟩
  have := le_of_syncEnd_syncBlock _ (headerAt_iff.1 h).1
  omega

end Header

variable (hcalm : (syncByte :: G).IsChain Calm)
include hcalm

/-- The syncs of the doubled image (40_gcr_codec.md R122). -/
theorem syncEnd_doubledImage_cases {q : Nat} (h : SyncEnd (doubledImage H G) q) : q ∈ [5, 29, 359, 383] := by
  have hlen := headerPart_length hH
  have hsync (R S : List Byte) : ∀ k < 2, (syncBlock R ++ S).getD k 0 = syncByte ∨ syncBlock R ++ S = [] := fun k hk =>
    .inl (syncBlock_getD_sync S (by omega))
  have hheader := headerPart_calm H
  obtain rfl | ⟨a, ha, rfl⟩ := syncEnd_syncBlock_append _ hheader (hsync _ _) h
  · decide
  obtain rfl | ⟨b, hb, rfl⟩ := syncEnd_syncBlock_append _ hcalm (hsync _ _) ha
  · simp [hlen]
  obtain rfl | ⟨c, hc, rfl⟩ := syncEnd_syncBlock_append _ hheader (by simpa using hsync G []) hb
  · simp [hlen, hG]
  rw [← List.append_nil (syncBlock G)] at hc
  obtain rfl | ⟨d, hd, -⟩ := syncEnd_syncBlock_append _ hcalm (fun _ _ => .inr rfl) hc
  · simp [hlen, hG]
  · exact absurd hd.lt_length (Nat.not_lt_zero d)

/-- The sync before the data block is the next after the header (40_gcr_codec.md R124). -/
theorem nextSync_doubledImage : NextSync (doubledImage H G) 15 29 := by
  have hlen := headerPart_length hH
  have hgap : (doubledImage H G).getD 15 0 = 0x55 := by
    have hpart : (headerPart H).getD 10 0 = 0x55 := by
      rw [headerPart, List.getD_append_right _ _ _ _ (by rw [encBytes_length, hH]), encBytes_length, hH]
      rfl
    rw [← hpart]
    exact syncBlock_getD_succ (k := 11) _ (by rw [hlen]; decide)
  have hsync : SyncEnd (doubledImage H G) 29 := by
    have hdrop : (doubledImage H G).drop 24 = syncBlock G ++ (syncBlock (headerPart H) ++ syncBlock G) :=
      List.drop_left' (by rw [syncBlock_length, hlen])
    exact SyncEnd.of_drop (n := 24) (q := 5) (hdrop ▸ syncEnd_syncBlock _ hcalm (by rw [hG]; decide))
  refine ⟨by decide, hsync.drop (by rw [hgap]; decide) (by decide), fun d h1 h2 hd => ?_⟩
  have hd' := SyncEnd.of_drop hd
  rw [Nat.add_sub_of_le h1] at hd'
  have hmem := syncEnd_doubledImage_cases hH hG hcalm hd'
  simp only [List.mem_cons, List.not_mem_nil, or_false] at hmem
  omega

/-- What DECSEC answers on the image, the data block `D` decoded (40_gcr_codec.md R123, R124). -/
theorem decodeSector_doubledImage {track sector : Byte} (hid : H.getD 0 0 = 0x08) (hsector : H.getD 2 0 = sector)
    (htrack : H.getD 3 0 = track) (id0 id1 : Byte) {D : List Byte} (hD : decBytes params G = D) :
    decodeSector params track sector id0 id1 (doubledImage H G) =
      if H.getD 2 0 ^^^ H.getD 3 0 ^^^ H.getD 4 0 ^^^ H.getD 5 0 ≠ H.getD 1 0 then (.badHeaderChecksum, params.ofp)
      else
        (if anyBadGcr (doubledImage H G) 29 325 then .badGcrCode
          else if H.getD 5 0 ≠ id0 ∨ H.getD 4 0 ≠ id1 then .idMismatch
          else if D.getD 0 0 ≠ 0x07 then .dataNotFound
          else if xorBytes ((D.drop 1).take 256) ≠ D.getD 257 0 then .badDataChecksum
          else .ok, (D.drop 1).take 256) := by
  obtain ⟨hq, hfirst⟩ := headerAt_first hH hG hid hsector htrack
  have hblock : ((doubledImage H G).drop 29).take 325 = G := by
    have hdrop := drop_syncBlock (syncBlock (headerPart H)) G (syncBlock (headerPart H) ++ syncBlock G)
    rw [syncBlock_length, headerPart_length hH] at hdrop
    rw [doubledImage, hdrop, List.take_left' hG]
  have hlen : 29 + 325 ≤ (doubledImage H G).length := by rw [doubledImage_length hH hG]; decide
  rw [decodeSector_of_header hq hfirst, headerAt_doubledImage hH, anyBadGcr_eq_false (header_not_badAt hH),
    decodeData_of_next _ (nextSync_doubledImage hH hG hcalm) hlen, hblock, hD]
  simp only [headerChecksumBad_iff, headerIdMismatch_eq, decide_eq_true_eq, Bool.false_eq_true, if_false]

end Doubled

/-! ### The image of ENCSEC -/

section Image
variable (e : SectorError) (track sector id0 id1 : Byte) (pay : List Byte)

/-- With its sync bytes in place the image written twice is the doubled image of its header and its data block. -/
theorem sectorImage_doubled (he : e ≠ .syncNotFound) :
    sectorImage params e track sector id0 id1 pay ++ sectorImage params e track sector id0 id1 pay =
      doubledImage (headerPlain params e track sector id0 id1) (dataGcr params e pay) := by
  simp only [sectorImage, imageSyncByte, if_neg he, doubledImage, syncBlock, headerPart, List.append_assoc]
  rfl

/-- Without its sync bytes the image has no sync (40_gcr_codec.md R111). -/
theorem sectorImage_no_sync (hpay : pay.length = 256) (q : Nat) :
    ¬ SyncEnd (sectorImage params .syncNotFound track sector id0 id1 pay
      ++ sectorImage params .syncNotFound track sector id0 id1 pay) q := by
  have hlimited : Limited true 9 4 (bitString (sectorImage params .syncNotFound track sector id0 id1 pay)) := by
    simp only [sectorImage, bitString_append]
    exact ((((limited_ones_gap 5).append (limited_ones_encBytes _)).append (limited_ones_gap 9)).append
      (limited_ones_gap 5)).append (limited_ones_dataGcr _ hpay)
  refine not_syncEnd_of_isChain (Limited.isChain_calm ?_).tail q
  rw [bitString_append]
  exact hlimited.append hlimited

theorem headerPlain_length : (headerPlain params e track sector id0 id1).length = 8 := rfl

theorem dataPlain_length (hpay : pay.length = 256) : (dataPlain params e pay).length = 260 := by simp [dataPlain, hpay]

/-- The fields of a data block (30_encoding.md R89). -/
theorem dataPlain_fields (hpay : pay.length = 256) :
    (dataPlain params e pay).getD 0 0 = invertIf e .dataNotFound 0x07
      ∧ ((dataPlain params e pay).drop 1).take 256 = pay
      ∧ (dataPlain params e pay).getD 257 0 = invertIf e .badDataChecksum (xorBytes pay) := by
  refine ⟨rfl, ?_, ?_⟩
  · rw [dataPlain, List.append_assoc, List.drop_left' (by rfl), List.take_left' hpay]
  · rw [dataPlain, List.getD_append_right _ _ _ _ (by simp [hpay])]
    simp [hpay]

/-- The data block decodes to its bytes where its second group is in place (40_gcr_codec.md R124). -/
theorem decBytes_dataGcr (he : e ≠ .badGcrCode) (hpay : pay.length = 256) :
    decBytes params (dataGcr params e pay) = dataPlain params e pay := by
  rw [dataGcr, if_neg he, decBytes_encBytes (by rw [dataPlain_length e pay hpay]; decide)]

/-- The second group of the data block that injects BadGcrCode (40_gcr_codec.md R111). -/
theorem dataGcr_getD_zeroed (he : e = .badGcrCode) (hpay : pay.length = 256) {k : Nat} (h1 : 5 ≤ k) (h2 : k < 10) :
    (dataGcr params e pay).getD k 0 = 0 := by
  have hlen : ((encBytes params (dataPlain params e pay)).take 5).length = 5 := by
    simp [encBytes_length, dataPlain_length e pay hpay]
  rw [dataGcr, if_pos he, List.append_assoc, List.getD_append_right _ _ _ _ (by omega), hlen,
    List.getD_append _ _ _ _ (by simp; omega), List.getD_replicate _ (by omega)]

/-- The data block has a bad window exactly where its second group is zeroed (40_gcr_codec.md R111). -/
theorem anyBadGcr_data (hpay : pay.length = 256) {H : List Byte} (hH : H.length = 8) :
    anyBadGcr (doubledImage H (dataGcr params e pay)) 29 325 = decide (e = .badGcrCode) := by
  have hlen := headerPart_length hH
  have hG : (dataGcr params e pay).length = 325 := dataGcr_length params e hpay
  have hpos : (syncBlock (headerPart H)).length + 5 = 29 := by rw [syncBlock_length, hlen]
  by_cases he : e = .badGcrCode
  · rw [decide_eq_true he, anyBadGcr_iff]
    refine ⟨6, by decide, badGcr_iff.1 ?_⟩
    have hzero (k : Nat) (h1 : 5 ≤ k) (h2 : k < 10) : (doubledImage H (dataGcr params e pay)).getD (29 + k) 0 = 0 := by
      have hdrop := drop_syncBlock (syncBlock (headerPart H)) (dataGcr params e pay)
        (syncBlock (headerPart H) ++ syncBlock (dataGcr params e pay))
      have hget : ((doubledImage H (dataGcr params e pay)).drop 29).getD k 0 = (dataGcr params e pay).getD k 0 := by
        rw [doubledImage, ← hpos, hdrop, List.getD_append _ _ _ _ (by omega)]
      rw [List.getD_eq_getElem?_getD, List.getElem?_drop, ← List.getD_eq_getElem?_getD] at hget
      exact hget.trans (dataGcr_getD_zeroed e pay he hpay h1 h2)
    rw [badGcr, prevPos, if_neg (by decide), hzero 6 (by decide) (by decide)]
    rw [show 29 + 6 - 1 = 29 + 5 by rfl, hzero 5 (by decide) (by decide)]
    decide
  · rw [decide_eq_false he]
    refine anyBadGcr_eq_false fun j hj => ?_
    have hsound : (syncByte :: dataGcr params e pay).IsChain Sound := by
      rw [dataGcr, if_neg he]
      exact (limited_zeros_encBytes _).isChain_sound
    have hbad := not_badAt_syncBlock (syncBlock (headerPart H)) (R := [])
      (syncBlock (headerPart H) ++ syncBlock (dataGcr params e pay)) hsound (hG ▸ hj)
    rwa [List.append_nil, hpos] at hbad

/-- The header's fields in the default layout (30_encoding.md R88). -/
theorem headerPlain_fields :
    (headerPlain params e track sector id0 id1).getD 0 0 = invertIf e .headerNotFound 0x08
      ∧ (headerPlain params e track sector id0 id1).getD 1 0 = invertIf e .badHeaderChecksum
          (sector ^^^ track ^^^ invertIf e .idMismatch id1 ^^^ invertIf e .idMismatch id0)
      ∧ (headerPlain params e track sector id0 id1).getD 2 0 = sector
      ∧ (headerPlain params e track sector id0 id1).getD 3 0 = track
      ∧ (headerPlain params e track sector id0 id1).getD 4 0 = invertIf e .idMismatch id1
      ∧ (headerPlain params e track sector id0 id1).getD 5 0 = invertIf e .idMismatch id0 :=
  ⟨rfl, rfl, rfl, rfl, rfl, rfl⟩

/-- Inverting a byte gives another byte. -/
theorem invertIf_ne_iff {inj e : SectorError} {v : Byte} : invertIf inj e v ≠ v ↔ inj = e := by
  have hne : ∀ v : Byte, v ^^^ 0xFF ≠ v := by decide +kernel
  rw [invertIf]
  split
  next h => exact iff_of_true (hne v) h
  next h => exact iff_of_false (not_not.2 rfl) h

/-- Without its header ID the image has no header: neither its header nor its data block begins with one
(40_gcr_codec.md R111). -/
theorem sectorImage_no_header (hpay : pay.length = 256) (q : Nat) :
    ¬ HeaderAt track sector (doubledImage (headerPlain params .headerNotFound track sector id0 id1)
      (dataGcr params .headerNotFound pay)) q := by
  generalize hH : headerPlain params .headerNotFound track sector id0 id1 = H
  generalize hD : dataPlain params .headerNotFound pay = D
  have hHlen : H.length = 8 := hH ▸ rfl
  have hDlen : D.length = 260 := hD ▸ dataPlain_length _ pay hpay
  have hGlen : (dataGcr params .headerNotFound pay).length = 325 := dataGcr_length params _ hpay
  have hG : dataGcr params .headerNotFound pay = encBytes params (D.take 8) ++ encBytes params (D.drop 8) := by
    rw [← encBytes_append _ (by rw [List.length_take, hDlen]; decide), List.take_append_drop, ← hD]
    rfl
  have hblock : (syncBlock (headerPart H)).length = 24 := by rw [syncBlock_length, headerPart_length hHlen]
  have hpart : (D.take 8).length = 8 := by rw [List.length_take, hDlen]; rfl
  intro h
  obtain ⟨hsync, -, H', hdec, hid, -⟩ := h
  have hat : headerAt params (doubledImage H (dataGcr params .headerNotFound pay)) q = H' := hdec.symm
  have hmem := syncEnd_doubledImage_cases hHlen hGlen (limited_ones_dataGcr _ hpay).isChain_calm hsync
  have hcases : H' = H ∨ H' = D.take 8 := by
    rw [← hat]
    simp only [List.mem_cons, List.not_mem_nil, or_false] at hmem
    rw [doubledImage]
    obtain rfl | rfl | rfl | rfl := hmem
    · exact .inl (headerAt_syncBlock (P := []) rfl rfl hHlen)
    · refine .inr (headerAt_syncBlock (P := syncBlock (headerPart H)) (by rw [hG]) (by rw [hblock]) hpart)
    · refine .inl (headerAt_syncBlock (P := syncBlock (headerPart H) ++ syncBlock (dataGcr params .headerNotFound pay))
        (List.append_assoc _ _ _).symm ?_ hHlen)
      rw [List.length_append, hblock, syncBlock_length, hGlen]
    · refine .inr (headerAt_syncBlock (S := [])
        (P := syncBlock (headerPart H) ++ (syncBlock (dataGcr params .headerNotFound pay) ++ syncBlock (headerPart H)))
        (by rw [← hG]; simp) ?_ hpart)
      rw [List.length_append, List.length_append, hblock, syncBlock_length, hGlen]
  obtain rfl | rfl := hcases
  · rw [← hH] at hid
    exact absurd (show (0xF7 : Byte) = 0x08 from hid) (by decide)
  · rw [← hD] at hid
    exact absurd (show (0x07 : Byte) = 0x08 from hid) (by decide)

/-- DECSEC on the image of an injected error reports that error, and without one the payload (40_gcr_codec.md R111,
R127). -/
theorem decodeSector_sectorImage (hpay : pay.length = 256) {C : List Byte}
    (hC : sectorImage params e track sector id0 id1 pay = C) :
    (decodeSector params track sector id0 id1 (C ++ C)).1 = e
      ∧ (e = .ok → (decodeSector params track sector id0 id1 (C ++ C)).2 = pay) := by
  subst hC
  by_cases hsync : e = .syncNotFound
  · subst hsync
    rw [decodeSector_of_noSync (sectorImage_no_sync track sector id0 id1 pay hpay)]
    exact ⟨rfl, nofun⟩
  rw [sectorImage_doubled e track sector id0 id1 pay hsync]
  by_cases hheader : e = .headerNotFound
  · subst hheader
    rw [decodeSector_of_noHeader (syncEnd_doubledImage rfl) (sectorImage_no_header track sector id0 id1 pay hpay)]
    exact ⟨rfl, nofun⟩
  obtain ⟨h0, h1, h2, h3, h4, h5⟩ := headerPlain_fields e track sector id0 id1
  have hG : (dataGcr params e pay).length = 325 := dataGcr_length params e hpay
  rw [decodeSector_doubledImage rfl hG (limited_ones_dataGcr e hpay).isChain_calm (h0.trans (if_neg hheader)) h2 h3 id0 id1
    rfl, anyBadGcr_data e pay hpay rfl, h1, h2, h3, h4, h5]
  simp only [ne_comm (a := sector ^^^ track ^^^ _ ^^^ _), invertIf_ne_iff, or_self, decide_eq_true_eq]
  by_cases hbad : e = .badGcrCode
  · subst hbad
    exact ⟨rfl, nofun⟩
  obtain ⟨d0, dpay, dck⟩ := dataPlain_fields e pay hpay
  rw [decBytes_dataGcr e pay hbad hpay, d0, dpay, dck]
  simp only [ne_comm (a := xorBytes pay), invertIf_ne_iff]
  cases e
  case headerNotFound => exact absurd rfl hheader
  case syncNotFound => exact absurd rfl hsync
  case badGcrCode => exact absurd rfl hbad
  case ok => exact ⟨rfl, fun _ => rfl⟩
  all_goals exact ⟨rfl, nofun⟩

end Image

/-! ### ENCSEC, then DECSEC -/

/-- What was written is read back, whatever the buffer holds elsewhere. -/
theorem readBytes_cellsFrom_append (m : Memory) (a : Nat) (l : List Byte) :
    readBytes (cellsFrom a l ++ m) a l.length = some l := by
  induction l generalizing a with
  | nil => exact readBytes_zero _ a
  | cons v l ih =>
    rw [cellsFrom, List.cons_append, List.length_cons, readBytes, if_pos rfl, ih, Option.map_some]

/-- Cells before the region read are passed. -/
theorem readBytes_append_of_lt {m : Memory} {a : Nat} (h : ∀ x ∈ m, x.1 < a) (m' : Memory) (n : Nat) :
    readBytes (m ++ m') a n = readBytes m' a n := by
  induction m with
  | nil => rfl
  | cons x m ih =>
    obtain ⟨k, v⟩ := x
    have hk : k < a := h (k, v) List.mem_cons_self
    cases n with
    | zero => rw [readBytes_zero, readBytes_zero]
    | succ n =>
      rw [List.cons_append, readBytes, if_neg hk.ne, if_pos hk]
      exact ih fun y hy => h y (List.mem_cons_of_mem _ hy)

/-- A region just written reads as written, in any buffer (20_memory.md R65). -/
theorem readBytes_writeBytes_self (m : Memory) (a : Nat) (l : List Byte) :
    readBytes (writeBytes m a l) a l.length = some l := by
  have hbefore : ∀ x ∈ m.filter (·.1 < a), x.1 < a := fun x hx => by simpa using (List.mem_filter.1 hx).2
  rw [writeBytes, List.append_assoc, readBytes_append_of_lt hbefore]
  exact readBytes_cellsFrom_append _ a l

/-- DECSEC on the image that ENCSEC wrote for the error `e`, alone in the cycle window (40_gcr_codec.md R111, R127). -/
theorem encsec_then_decsec {s : State} {e : SectorError} {pay : List Byte} (hs : s.flag .fault = false)
    (hpos : s.pos.toNat + 354 ≤ 8192) (he : s.inj = defaultErrNumber e) (hpay : readBytes s.sb 0 256 = some pay) :
    ∃ t u, exec .encsec s = .next t ∧ exec .decsec { t with cycs := s.pos, cycl := 354 } = .next u
      ∧ u.err = defaultErrNumber e ∧ (e = .ok → ∀ a < 256, readByte u.sb a = pay[a]?) := by
  have hlen := readBytes_length hpay
  have himage := sectorImage_length (c := params) rfl e s.track s.sector s.id0 s.id1 hlen
  have hC := readBytes_writeBytes_self s.tb s.pos.toNat (sectorImage params e s.track s.sector s.id0 s.id1 pay)
  rw [himage] at hC
  have hs' : flagOf (s.status ||| 0x01) .fault = false := by
    rw [← withFlag_done_done]
    simpa [State.flag] using hs
  obtain ⟨hcode, hpayload⟩ := decodeSector_sectorImage e s.track s.sector s.id0 s.id1 pay hlen rfl
  refine ⟨_, _, exec_encsec_of_payload hs hpos he hpay,
    exec_decsec_of_written hs' (show (354 : Word) ≠ 0 by decide) hpos hC rfl,
    congrArg defaultErrNumber hcode, fun hok a ha => ?_⟩
  refine (stored_writeBytes s.sb 0 _ a).trans ?_
  rw [hpayload hok, if_pos ⟨Nat.zero_le a, by omega⟩]
  rfl

/-- Settles O19: DECSEC on the image reports the injected error (`encsec_then_decsec`). -/
theorem injectedErrorIsReportedExactly : Obligations.InjectedErrorIsReportedExactly := by
  intro s pay hs hpos hinj hpay
  obtain ⟨e, he⟩ := mem_sectorNumbers_iff.1 hinj
  obtain ⟨t, u, ht, hu, herr, -⟩ := encsec_then_decsec hs hpos he.symm hpay
  exact ⟨t, u, ht, hu, herr.trans he⟩

/-- Settles O20: without an injected error DECSEC reports Ok and stores the payload (`encsec_then_decsec`). -/
theorem encsecThenDecsecRoundTrips : Obligations.EncsecThenDecsecRoundTrips := by
  intro s pay hs hpos hinj hpay
  obtain ⟨t, u, ht, hu, herr, hstored⟩ := encsec_then_decsec (e := .ok) hs hpos hinj hpay
  exact ⟨t, u, ht, hu, herr, hstored rfl⟩

end Sys2Proof.Machine
end

section
/-! The strategies of the Cycle Detector (42_cycle_detector.md R161 to R171): RAW answers the first matching pair, every
answer lies in the capture, and CYCDET stores what the first strategy that succeeds answers. -/

namespace Sys2Proof.Machine

/-! ### RAW -/

section Raw
variable {k : CycleInput}

/-- One turn of the inner loop on the capture's own bytes (42_cycle_detector.md R167). -/
theorem rawInner_succ (w : List Byte) (n p : Nat) :
    rawInner k.gap w (n + 1) (k.tb.drop p) p =
      if w = cycleWin k p ∧ validWin (cycleWin k p) then some p else rawInner k.gap w n (k.tb.drop (p + 1)) (p + 1) := by
  rw [rawInner, List.tail_drop]
  rfl

/-- The inner loop answers a matching position of its range. -/
theorem match_of_rawInner {w : List Byte} {n p r : Nat} (h : rawInner k.gap w n (k.tb.drop p) p = some r) :
    p ≤ r ∧ r < p + n ∧ w = cycleWin k r ∧ validWin (cycleWin k r) = true := by
  induction n generalizing p with
  | zero => cases h
  | succ n ih =>
    rw [rawInner_succ] at h
    split at h
    next hm =>
      obtain rfl := Option.some.inj h
      exact ⟨le_rfl, by omega, hm⟩
    next =>
      obtain ⟨h1, h2, hm⟩ := ih h
      exact ⟨by omega, by omega, hm⟩

/-- The inner loop passes no matching position of its range. -/
theorem exists_rawInner_le {w : List Byte} {n p r : Nat} (h1 : p ≤ r) (h2 : r < p + n) (hw : w = cycleWin k r)
    (hv : validWin (cycleWin k r) = true) : ∃ q ≤ r, rawInner k.gap w n (k.tb.drop p) p = some q := by
  induction n generalizing p with
  | zero => omega
  | succ n ih =>
    rw [rawInner_succ]
    split
    next => exact ⟨p, h1, rfl⟩
    next hno =>
      have hne : p ≠ r := by
        rintro rfl
        exact hno ⟨hw, hv⟩
      exact ih (by omega) (by omega)

/-- What the inner loop answers for the start `p` (42_cycle_detector.md R167). -/
def rawRepeat (k : CycleInput) (p : Nat) : Option Nat :=
  rawInner k.gap (cycleWin k p) (min (cycleStop k - 1) (p + cycleHi k) + 1 - (p + k.capMin + k.allow))
    (k.tb.drop (p + k.capMin + k.allow)) (p + k.capMin + k.allow)

theorem rawOuter_succ (fuel p : Nat) :
    rawOuter k (fuel + 1) p =
      if cycleStop k ≤ p + k.capMin + k.allow then none
      else match rawRepeat k p with
        | some r => some (p, r - p)
        | none => rawOuter k fuel (p + 1) := rfl

section Repeat
variable {p : Nat} (h : p + k.capMin + k.allow < cycleStop k)
include h

theorem rawMatch_of_rawRepeat {r : Nat} (hr : rawRepeat k p = some r) : RawMatch k p r := by
  obtain ⟨h1, h2, hm⟩ := match_of_rawInner hr
  exact ⟨h1, by omega, by omega, hm⟩

theorem exists_rawRepeat_le {r : Nat} (hr : RawMatch k p r) : ∃ q ≤ r, rawRepeat k p = some q := by
  obtain ⟨h1, h2, h3, hw, hv⟩ := hr
  exact exists_rawInner_le h1 (by omega) hw hv

/-- The inner loop answers the first match of its start (42_cycle_detector.md R167). -/
theorem rawRepeat_eq_some_iff {r : Nat} : rawRepeat k p = some r ↔ RawMatch k p r ∧ ∀ r' < r, ¬ RawMatch k p r' :=
  eq_some_iff_first (f := id) (fun r hr => ⟨r, rfl, rawMatch_of_rawRepeat h hr⟩) (fun _ => exists_rawRepeat_le h)
    Function.injective_id

theorem rawRepeat_eq_none_iff : rawRepeat k p = none ↔ ∀ r, ¬ RawMatch k p r :=
  eq_none_iff_nowhere (f := id) (fun r hr => ⟨r, rfl, rawMatch_of_rawRepeat h hr⟩) (fun _ => exists_rawRepeat_le h)

end Repeat

/-- RAW takes the pair at the smallest start from `p` on, and there the shortest length (42_cycle_detector.md R167). -/
def FirstRawMatch (k : CycleInput) (p s l : Nat) : Prop :=
  RawMatch k s (s + l) ∧ (∀ l' < l, ¬ RawMatch k s (s + l')) ∧ p ≤ s ∧ ∀ s', p ≤ s' → s' < s → ∀ r, ¬ RawMatch k s' r

/-- There is only one first pair. -/
theorem FirstRawMatch.unique {p s l s' l' : Nat} (h : FirstRawMatch k p s l) (h' : FirstRawMatch k p s' l') :
    s = s' ∧ l = l' := by
  obtain ⟨hm, hl, hp, hs⟩ := h
  obtain ⟨hm', hl', hp', hs'⟩ := h'
  obtain rfl : s = s' := le_antisymm (not_lt.1 fun hlt => hs s' hp' hlt _ hm') (not_lt.1 fun hlt => hs' s hp hlt _ hm)
  exact ⟨rfl, le_antisymm (not_lt.1 fun hlt => hl l' hlt hm') (not_lt.1 fun hlt => hl' l hlt hm)⟩

/-- What RAW answers from the start `p` on (42_cycle_detector.md R167). -/
def RawAnswer (k : CycleInput) (p : Nat) : Option (Nat × Nat) → Prop
  | none => ∀ s, p ≤ s → ∀ r, ¬ RawMatch k s r
  | some x => FirstRawMatch k p x.1 x.2

/-- A start without a match is passed. -/
theorem RawAnswer.of_not {p : Nat} {x : Option (Nat × Nat)} (hno : ∀ r, ¬ RawMatch k p r)
    (h : RawAnswer k (p + 1) x) : RawAnswer k p x := by
  have from_p {s : Nat} (hs : p ≤ s) (h' : p + 1 ≤ s → ∀ r, ¬ RawMatch k s r) : ∀ r, ¬ RawMatch k s r := by
    obtain rfl | hlt := hs.eq_or_lt
    · exact hno
    · exact h' hlt
  cases x with
  | none => exact fun s hs => from_p hs (h s)
  | some x =>
    obtain ⟨hm, hl, hp, hs⟩ := h
    exact ⟨hm, hl, by omega, fun s' h1 h2 => from_p h1 fun h1 => hs s' h1 h2⟩

/-- The outer loop answers the first match (42_cycle_detector.md R167). -/
theorem rawAnswer_rawOuter {fuel p : Nat} (hfuel : k.tb.length ≤ fuel + p) : RawAnswer k p (rawOuter k fuel p) := by
  have hstop := cycleStop_le k
  induction fuel generalizing p with
  | zero =>
    rintro s hs r ⟨h1, -, h3, -⟩
    omega
  | succ fuel ih =>
    rw [rawOuter_succ]
    split
    next hend =>
      rintro s hs r ⟨h1, -, h3, -⟩
      omega
    next hlt =>
      have hlt := Nat.not_le.1 hlt
      split
      next r hr =>
        obtain ⟨hm, hfirst⟩ := (rawRepeat_eq_some_iff hlt).1 hr
        have hpr : p + (r - p) = r := by have := hm.1; omega
        exact ⟨by rwa [hpr], fun l' hl' => hfirst _ (by omega), le_rfl, fun s' h1 h2 => absurd h1 (by omega)⟩
      next hr => exact .of_not ((rawRepeat_eq_none_iff hlt).1 hr) (ih (by omega))

theorem rawAnswer_strategyRaw (k : CycleInput) : RawAnswer k 0 (strategyRaw k) := rawAnswer_rawOuter le_rfl

theorem strategyRaw_eq_none_iff : strategyRaw k = none ↔ ∀ p1 p2, ¬ RawMatch k p1 p2 := by
  have h := rawAnswer_strategyRaw k
  cases e : strategyRaw k with
  | none =>
    rw [e] at h
    exact iff_of_true rfl fun s => h s s.zero_le
  | some x =>
    rw [e] at h
    exact iff_of_false nofun fun hno => hno _ _ h.1

theorem strategyRaw_eq_some_iff {s l : Nat} : strategyRaw k = some (s, l) ↔ FirstRawMatch k 0 s l := by
  have h := rawAnswer_strategyRaw k
  constructor
  · intro e
    rwa [e] at h
  · intro hfirst
    cases e : strategyRaw k with
    | none => exact absurd hfirst.1 (strategyRaw_eq_none_iff.1 e _ _)
    | some x =>
      rw [e] at h
      obtain ⟨h1, h2⟩ := hfirst.unique h
      rw [h1, h2]

end Raw

/-- Settles O29: the loops answer the first match (`rawAnswer_rawOuter`). -/
theorem rawFindsTheFirstMatchingPair : Obligations.RawFindsTheFirstMatchingPair := by
  refine fun k => ⟨fun s l => ?_, strategyRaw_eq_none_iff⟩
  rw [strategyRaw_eq_some_iff, FirstRawMatch]
  simp only [Nat.zero_le, true_and, forall_true_left]

/-! ### Inside the capture -/

/-- Settles O31: half of the range is added, and the cut is the smaller of the two lengths. -/
theorem postExtendsAShortLength : Obligations.PostExtendsAShortLength := by
  intro k s l hsl hcap
  simp only [cyclePost]
  split
  next hle =>
    rw [Prod.mk.injEq]
    refine ⟨rfl, ?_⟩
    split <;> omega
  next => rfl

theorem cyclePost_inside {k : CycleInput} {r : Nat × Nat} (hcap : k.capMin ≤ k.capMax) (hr : r.1 + r.2 ≤ k.tb.length) :
    (cyclePost k r).1 + (cyclePost k r).2 ≤ k.tb.length := by
  rw [postExtendsAShortLength k r.1 r.2 hr hcap]
  split
  · have := Nat.min_le_right (r.2 + (k.capMax - k.capMin) / 2) (k.tb.length - r.1)
    simp only
    omega
  · exact hr

/-- An answer of MARKS lies in the capture (42_cycle_detector.md R164). -/
theorem marks_inside {k : CycleInput} {F : MarkFinder} (hF : Advances F (cycleStop k)) {r : Nat × Nat}
    (h : marks k F = some r) : r.1 + r.2 ≤ k.tb.length := by
  obtain ⟨hpair, -⟩ := firstMarkPair_of_marks hF h
  obtain ⟨-, hrepeat, -⟩ := markPair_iff.1 hpair
  exact (hF.marked hrepeat).2.trans (cycleStop_le k)

theorem strategyHeader_inside {k : CycleInput} {r : Nat × Nat} (h : strategyHeader k = some r) :
    r.1 + r.2 ≤ k.tb.length := marks_inside (advances_fhdr k.tb _) h

theorem strategySync_inside {k : CycleInput} {r : Nat × Nat} (h : strategySync k = some r) :
    r.1 + r.2 ≤ k.tb.length := marks_inside (advances_fsync k.tb _) h

theorem strategyRaw_inside {k : CycleInput} {r : Nat × Nat} (h : strategyRaw k = some r) : r.1 + r.2 ≤ k.tb.length := by
  obtain ⟨⟨-, -, hstop, -⟩, -⟩ := strategyRaw_eq_some_iff.1 h
  exact hstop.le.trans (cycleStop_le k)

/-! ### The stages -/

section Stages
variable {k : CycleInput} {r : Nat × Nat}

theorem detectCycle_of_header (h : strategyHeader k = some r) : detectCycle k = (cyclePost k r, 1) := by
  simp only [detectCycle, h]

theorem detectCycle_of_sync (h1 : strategyHeader k = none) (h : strategySync k = some r) :
    detectCycle k = (cyclePost k r, 2) := by
  simp only [detectCycle, h1, h]

theorem detectCycle_of_raw (h1 : strategyHeader k = none) (h2 : strategySync k = none) (h : strategyRaw k = some r) :
    detectCycle k = (cyclePost k r, 3) := by
  simp only [detectCycle, h1, h2, h]

theorem detectCycle_of_none (h1 : strategyHeader k = none) (h2 : strategySync k = none) (h : strategyRaw k = none) :
    detectCycle k = ((0, k.tb.length), 0) := by
  simp only [detectCycle, h1, h2, h]

/-- The cycle detected lies in the capture (42_cycle_detector.md R172). -/
theorem detectCycle_inside (hcap : k.capMin ≤ k.capMax) :
    (detectCycle k).1.1 + (detectCycle k).1.2 ≤ k.tb.length := by
  cases h1 : strategyHeader k with
  | some r =>
    rw [detectCycle_of_header h1]
    exact cyclePost_inside hcap (strategyHeader_inside h1)
  | none =>
    cases h2 : strategySync k with
    | some r =>
      rw [detectCycle_of_sync h1 h2]
      exact cyclePost_inside hcap (strategySync_inside h2)
    | none =>
      cases h3 : strategyRaw k with
      | some r =>
        rw [detectCycle_of_raw h1 h2 h3]
        exact cyclePost_inside hcap (strategyRaw_inside h3)
      | none =>
        rw [detectCycle_of_none h1 h2 h3]
        exact (Nat.zero_add _).le

end Stages

/-- A finder that has no mark from the start on makes MARKS fail (42_cycle_detector.md R164). -/
theorem marks_eq_none_of_no_mark {k : CycleInput} {F : MarkFinder} (h : F 0 = none) : marks k F = none := by
  unfold marks
  cases k.tb.length with
  | zero => rfl
  | succ n => rw [startWalk, h]

/-- Settles O27: below GAPLEN + 2 bytes no position lies far enough below `stop` for a sync or for a repeat. -/
theorem shortCaptureGetsTheFallback : Obligations.ShortCaptureGetsTheFallback := by
  intro k hlen _ hmin
  have hstop : cycleStop k < 0 + 2 := by rw [cycleStop]; omega
  refine detectCycle_of_none (marks_eq_none_of_no_mark ?_) (marks_eq_none_of_no_mark (fsync_short _ hstop))
    (strategyRaw_eq_none_iff.2 ?_)
  · rw [fhdr_eq, fsync_short _ hstop]
  · rintro p1 p2 ⟨h1, -, h3, -⟩
    omega

/-! ### CYCDET -/

/-- What the answer of the detector says of the strategies (42_cycle_detector.md R161, R169, R172). -/
theorem stages_detectCycle {k : CycleInput} {x : (Nat × Nat) × BitVec 2} (hx : x = detectCycle k) :
    (x.2 = 1 ↔ (strategyHeader k).isSome)
      ∧ (x.2 = 2 ↔ strategyHeader k = none ∧ (strategySync k).isSome)
      ∧ (x.2 = 3 ↔ strategyHeader k = none ∧ strategySync k = none ∧ (strategyRaw k).isSome)
      ∧ (x.2 = 0 ↔ strategyHeader k = none ∧ strategySync k = none ∧ strategyRaw k = none)
      ∧ (x.2 = 0 → x.1 = (0, k.tb.length))
      ∧ (∀ r, strategyHeader k = some r → x.1 = cyclePost k r)
      ∧ (∀ r, strategyHeader k = none → strategySync k = some r → x.1 = cyclePost k r)
      ∧ ∀ r, strategyHeader k = none → strategySync k = none → strategyRaw k = some r → x.1 = cyclePost k r := by
  subst hx
  cases h1 : strategyHeader k with
  | some r => simp [detectCycle_of_header h1]
  | none =>
    cases h2 : strategySync k with
    | some r => simp [detectCycle_of_sync h1 h2]
    | none =>
      cases h3 : strategyRaw k with
      | some r => simp [detectCycle_of_raw h1 h2 h3]
      | none => simp [detectCycle_of_none h1 h2 h3]

/-- Settles O26: the rule stores `detectCycle` of the capture, whose pair fits the registers (`detectCycle_inside`). -/
theorem cycdetCompletesInsideTheCapture : Obligations.CycdetCompletesInsideTheCapture := by
  rintro s z mn mx a l k hs rfl hmn hmx ha hlen hle hgap hl hk
  have hrule : ruleCycdet (s.setFlag .done false) = .ok ((s.setFlag .done false).withCycle (detectCycle k)) :=
    hk ▸ ruleCycdet_of_written (s := s.setFlag .done false) hmn hmx ha hlen (Nat.not_lt.2 hle) hgap hl
  have hrun := (exec_eq_runCommand (i := .cycdet) (by decide) s).trans (runCommand_of_ok hs hrule)
  have hlength : k.tb.length = s.len.toNat := hk ▸ readBytes_length hl
  have hin : (detectCycle k).1.1 + (detectCycle k).1.2 ≤ k.tb.length := detectCycle_inside (hk ▸ hle)
  have toNat_word {n : Nat} (h : n ≤ k.tb.length) : (BitVec.ofNat 16 n).toNat = n :=
    (BitVec.toNat_ofNat ..).trans (Nat.mod_eq_of_lt (by omega))
  have hcycs := toNat_word (Nat.le_of_add_right_le hin)
  have hcycl := toNat_word (Nat.le_of_add_left_le hin)
  obtain ⟨h1, h2, h3, h4, h5, h6, h7, h8⟩ := stages_detectCycle (k := k) rfl
  refine ⟨_, hrun, ?_, ?_⟩
  · rw [← withFlag_done_done]
    rfl
  · simp only [State.withCycle, State.setFlag, hcycs, hcycl]
    refine ⟨trivial, hlength ▸ hin, h1, h2, h3, h4, fun h => ?_, h6, h7, h8⟩
    rw [h5 h, hlength]
    simp

end Sys2Proof.Machine
end

section
/-! A window without a sync run through ALIGNBS (43_bit_aligner.md R196), and the overrides, the checks and the rotation
of ALIGNSEL (30_encoding.md R92, 44_neighbour_units.md R211 to R214). -/

namespace Sys2Proof.Machine

/-! ### ALIGNBS without a sync run -/

/-- The walk over no sync run copies the bits (43_bit_aligner.md R195). -/
theorem alignBits_of_no_syncRun {x : List Bool} (h : ∀ a b, ¬ SyncRun x a b) : alignBits x = (x, 0) := by
  have hruns : syncRuns x = [] := List.eq_nil_iff_forall_not_mem.2 fun r hr => h _ _ (mem_syncRuns_iff.1 hr).2
  rw [alignBits, hruns, alignWalk, bitCopy, List.drop_zero, Nat.sub_zero, List.take_length]

theorem byteCount_bitString (l : List Byte) : byteCount (bitString l).length = l.length := by
  rw [byteCount, bitString_length]
  omega

/-- Settles O34: without a sync run the aligned bits are the window's own (`alignBits_of_no_syncRun`). -/
theorem alignbsCopiesATrackWithoutSync : Obligations.AlignbsCopiesATrackWithoutSync := by
  intro s l hs hrange hl hnone
  have hlen := readBytes_length hl
  have hbits := alignBits_of_no_syncRun hnone
  have hrun := exec_alignbs_of_window hs (readWindow_of_written hrange hl)
    (by rw [hbits, byteCount_bitString, hlen]; simp only [wbCap]; omega)
  rw [hbits, byteCount_bitString, packBits_bitString, hlen, BitVec.ofNat_toNat, BitVec.setWidth_eq] at hrun
  exact ⟨_, hrun, rfl, stored_writeBytes s.wb 0 l⟩

/-! ### The overrides of ALIGNSEL -/

/-- The values of ALIGNOVR outside the table (30_encoding.md R92). -/
theorem overrideOf_eq_none {b : Byte}
    (h : b.toNat ∉ [0x00, 0x01, 0x02, 0x03, 0x04, 0x05, 0x06, 0x10, 0x11, 0x12, 0x13]) : overrideOf b = none := by
  simp only [List.mem_cons, List.not_mem_nil, or_false, not_or] at h
  unfold overrideOf
  split <;> simp_all

/-- The values of ALIGNOVR that force a matcher (30_encoding.md R92). -/
theorem exists_signature_of_mem {b : Byte} (h : b.toNat ∈ [0x10, 0x11, 0x12, 0x13]) :
    ∃ k, overrideOf b = some (.signature k) := by
  simp only [List.mem_cons, List.not_mem_nil, or_false] at h
  obtain h | h | h | h := h
  · exact ⟨.vmax, overrideOf_of_toNat h⟩
  · exact ⟨.vmaxCinemaware, overrideOf_of_toNat h⟩
  · exact ⟨.pirateSlayer, overrideOf_of_toNat h⟩
  · exact ⟨.rapidLok, overrideOf_of_toNat h⟩

/-- The values of ALIGNOVR for a method that is no matcher (30_encoding.md R92). -/
theorem exists_override_of_mem {b : Byte} (h : b.toNat ∈ [0x00, 0x01, 0x02, 0x03, 0x04, 0x05, 0x06]) :
    ∃ v, overrideOf b = some v ∧ ∀ k, v ≠ .signature k := by
  simp only [List.mem_cons, List.not_mem_nil, or_false] at h
  obtain h | h | h | h | h | h | h := h <;> simp [overrideOf, h]

theorem matcherAbsent_eq_false {c : Config} {v : Override} (h : ∀ k, v ≠ .signature k) : matcherAbsent c v = false := by
  cases v with
  | signature k => exact absurd rfl (h k)
  | _ => rfl

/-- No matcher is present in the shipped parameters (SPEC.md, parameter sheet). -/
theorem matcherAbsent_params (k : ProtKind) : matcherAbsent params (.signature k) = true := rfl

/-! ### The checks of ALIGNSEL -/

section Checks
variable {c : Config} {s : State}

theorem ruleAlignsel_of_outside (h : s.cycl = 0 ∨ tbCap < s.cycs.toNat + s.cycl.toNat) :
    ruleAlignsel c s = .error .range := if_pos h

variable (hrange : ¬ (s.cycl = 0 ∨ tbCap < s.cycs.toNat + s.cycl.toNat))
include hrange

theorem ruleAlignsel_of_badArg (h : overrideOf s.alignovr = none) : ruleAlignsel c s = .error .badArg := by
  simp only [ruleAlignsel, if_neg hrange, h]

theorem ruleAlignsel_of_unwritten {v : Override} (hv : overrideOf s.alignovr = some v) (h : matcherAbsent c v = false)
    (hC : readBytes s.tb s.cycs.toNat s.cycl.toNat = none) : ruleAlignsel c s = .error .uninit := by
  simp only [ruleAlignsel, if_neg hrange, hv, h, Bool.false_eq_true, if_false]
  exact bind_error_iff.2 (.inl (readWindow_of_unwritten (Nat.not_lt.1 (not_or.1 hrange).2) hC))

end Checks

/-- Settles O36: the checks of the rule in their order, with the overrides of each row of the table. -/
theorem alignselChecksInOrder : Obligations.AlignselChecksInOrder := by
  intro s hs
  have fault {c : FaultCode} (h : ruleAlignsel params (s.setFlag .done false) = .error c) :
      exec .alignsel s = .next (faulted (faultNumber c) s) := runCommand_of_error hs h
  refine ⟨fun h => fault (ruleAlignsel_of_outside h), fun h0 hfits => ?_⟩
  have hrange : ¬ (s.cycl = 0 ∨ tbCap < s.cycs.toNat + s.cycl.toNat) := not_or.2 ⟨h0, Nat.not_lt.2 hfits⟩
  refine ⟨fun h => fault (ruleAlignsel_of_badArg hrange (overrideOf_eq_none h)), fun h => ?_, fun h hC => ?_⟩
  · obtain ⟨k, hk⟩ := exists_signature_of_mem h
    exact fault (ruleAlignsel_of_matcherAbsent (s := s.setFlag .done false) hrange hk (matcherAbsent_params k))
  · obtain ⟨v, hv, hsig⟩ := exists_override_of_mem h
    exact fault (ruleAlignsel_of_unwritten (s := s.setFlag .done false) hrange hv (matcherAbsent_eq_false hsig) hC)

/-! ### The rotation -/

/-- ALIGNSEL by a method that is no matcher (44_neighbour_units.md R214). -/
theorem exec_alignsel_rotated {s : State} {C : List Byte} {v : Override} (hs : s.flag .fault = false) (h0 : s.cycl ≠ 0)
    (hfits : s.cycs.toNat + s.cycl.toNat ≤ 8192) (hv : overrideOf s.alignovr = some v) (hsig : ∀ k, v ≠ .signature k)
    (hC : readBytes s.tb s.cycs.toNat s.cycl.toNat = some C) :
    ∃ t, exec .alignsel s = .next t ∧ Rotated s t C (tagNumber (selectAlign params (C ++ C) C.length v).1)
      (selectAlign params (C ++ C) C.length v).2 :=
  exists_rotated_of_written (not_or.2 ⟨h0, Nat.not_lt.2 hfits⟩) hv hs (matcherAbsent_eq_false hsig) hC rfl

/-- Settles O35: the numbers by computation, the rotation by `exec_alignsel_rotated`. -/
theorem alignselRotatesTheCycle : Obligations.AlignselRotatesTheCycle := by
  refine ⟨⟨rfl, rfl, rfl, rfl, rfl, rfl, rfl, rfl, rfl, rfl, rfl, fun b hb => overrideOf_eq_none ?_⟩, by decide, ?_⟩
  · simp only [List.mem_cons, List.not_mem_nil, or_false, not_or, ← BitVec.toNat_inj] at hb ⊢
    exact hb
  · intro s C v hs h0 hfits hv hsig hC
    obtain ⟨t, ht, hframe, hres, htb, hwb⟩ := exec_alignsel_rotated hs h0 hfits hv hsig hC
    have hlen := readBytes_length hC
    have hpos : (C.length : Int) ≠ 0 := by
      rw [hlen]
      exact fun h => h0 (BitVec.eq_of_toNat_eq (Int.ofNat_inj.1 h))
    have hlt : (t.res.toNat : Int) < C.length := hres ▸ Int.emod_lt_of_pos _ (by omega)
    have htag : t.tag = tagNumber (selectAlign params (C ++ C) C.length v).1 := congrArg State.tag hframe
    rw [← htag] at hframe
    exact ⟨t, ht, hframe, by omega, hres, htag, htb, hwb⟩

/-- Settles O37: the override 0x06 selects no method, so the offset is 0. -/
theorem forcedRawDoesNotRotate : Obligations.ForcedRawDoesNotRotate := by
  intro s C hs h0 hfits hovr hC
  obtain ⟨t, ht, hframe, hres, htb, -⟩ := exec_alignsel_rotated (v := .raw) hs h0 hfits (by rw [hovr]; rfl) nofun hC
  have hzero : t.res = 0 := BitVec.eq_of_toNat_eq (Int.ofNat_inj.1 (hres.trans (Int.zero_emod _)))
  refine ⟨t, ht, congrArg State.tag hframe, hzero, ?_⟩
  rw [hzero] at htb
  simpa using htb

end Sys2Proof.Machine
end

section
/-! The methods of ALIGNSEL: the automatic order (44_neighbour_units.md R213, R214), and the searches for the longest run
(R217, R218) over the maximal runs of a list. -/

namespace Sys2Proof.Machine

/-! ### The automatic order -/

section Automatic
variable {c : Config} {W : List Byte} {L : Nat}

/-- The matchers find nothing where no present one finds an offset (44_neighbour_units.md R213). -/
theorem firstSignature_eq_none_iff :
    firstSignature c W L = none ↔ ∀ k f, c.protMatch k = some f → f W L = none := by
  have hall : ∀ k, k ∈ protKinds := fun k => by cases k <;> decide
  simp only [firstSignature, protSearch, List.findSome?_eq_none_iff, Option.map_eq_none_iff, Option.bind_eq_none_iff, hall,
    forall_true_left]

/-- The first present matcher that finds an offset (44_neighbour_units.md R213). -/
theorem exists_first_of_firstSignature {tag : AlignTag} {o : Int} (h : firstSignature c W L = some (tag, o)) :
    ∃ ks k ks' f, ks ++ k :: ks' = protKinds ∧ c.protMatch k = some f ∧ f W L = some o ∧ tag = .signature k
      ∧ ∀ k' ∈ ks, ∀ f', c.protMatch k' = some f' → f' W L = none := by
  obtain ⟨ks, k, ks', hks, hfound, hbefore⟩ := List.findSome?_eq_some_iff.1 h
  obtain ⟨o', ho', heq⟩ := Option.map_eq_some_iff.1 hfound
  obtain ⟨f, hf, hfo⟩ := Option.bind_eq_some_iff.1 ho'
  obtain ⟨htag, rfl⟩ := Prod.mk.inj heq
  exact ⟨ks, k, ks', f, hks.symm, hf, hfo, htag.symm, fun k' hk' =>
    Option.bind_eq_none_iff.1 (Option.map_eq_none_iff.1 (hbefore k' hk'))⟩

theorem forced_map_ofNat (tag : AlignTag) (o : Option Nat) :
    forced tag (o.map Int.ofNat) = match o with | some o => (tag, (o : Int)) | none => (.none, 0) := by
  cases o <;> rfl

end Automatic

/-- Settles O38: one case per branch of `selectAutomatic`; a forced method's branch is its definition. -/
theorem automaticOrderTakesTheFirstApplicable : Obligations.AutomaticOrderTakesTheFirstApplicable := by
  refine fun c W L => ⟨fun tag o h => ?_, ?_, forced_map_ofNat _ _, forced_map_ofNat _ _, forced_map_ofNat _ _, rfl, rfl,
    fun k f hk => selectAlign_signature hk W L⟩
  · simp only [selectAlign, selectAutomatic] at h
    split at h
    next r hr =>
      subst h
      exact .inl (exists_first_of_firstSignature hr)
    next hnone =>
      refine .inr ⟨firstSignature_eq_none_iff.1 hnone, ?_⟩
      split at h
      next x hx =>
        obtain ⟨hg, hspan⟩ := Option.filter_eq_some_iff.1 hx
        obtain ⟨rfl, rfl⟩ := Prod.mk.inj h
        exact .inl ⟨x.1, hg, of_decide_eq_true hspan, rfl, Int.natCast_nonneg _⟩
      next hfilter =>
        have hshort : ∀ g, gapSearch W L = some g → g.1 ≤ 357 := fun g hg =>
          Nat.not_lt.1 fun hlt => Option.filter_eq_none_iff.1 hfilter g hg (decide_eq_true hlt)
        refine .inr ⟨hshort, ?_⟩
        split at h
        next q hq =>
          obtain ⟨rfl, rfl⟩ := Prod.mk.inj h
          exact .inl ⟨hq, rfl, Int.natCast_nonneg _⟩
        next hq =>
          refine .inr ⟨hq, ?_⟩
          split at h
          next x hx =>
            obtain ⟨rfl, rfl⟩ := Prod.mk.inj h
            exact .inl ⟨x.1, hx, rfl, Int.natCast_nonneg _⟩
          next hx =>
            refine .inr ⟨hx, ?_⟩
            split at h
            next q hq =>
              obtain ⟨rfl, rfl⟩ := Prod.mk.inj h
              exact .inl ⟨hq, rfl⟩
            next hq =>
              obtain ⟨rfl, rfl⟩ := Prod.mk.inj h
              exact .inr ⟨hq, rfl, rfl⟩
  · rw [selectAlign]
    cases gapSearch W L <;> rfl

/-! ### The longest run of a kind -/

section Longest
variable {α : Type}

/-- The places `rs` hold the runs of a kind that are at least `g` long, in ascending order: each place is such a run (its
start and its length in `R`), and each such run lies inside a place. -/
structure PlacesRuns (rs : List (Span α)) (g : Nat) (R : Nat → Nat → Prop) : Prop where
  ordered : rs.Pairwise fun s s' => s.start ≤ s'.start
  run : ∀ s ∈ rs, g ≤ s.stop - s.start ∧ R s.start (s.stop - s.start)
  inside : ∀ j m, g ≤ m → R j m → ∃ s ∈ rs, s.start ≤ j ∧ j + m ≤ s.stop

/-- The longest span is the library's greatest element by length, the first on ties. -/
theorem longestSpan_eq_argmax (rs : List (Span α)) : longestSpan rs = rs.argmax fun s => s.stop - s.start := by
  refine congrFun (congrFun (congrArg List.foldl ?_) none) rs
  funext best x
  cases best <;> rfl

theorem longestSpan_eq_none_iff {rs : List (Span α)} {g : Nat} {R : Nat → Nat → Prop} (h : PlacesRuns rs g R) :
    longestSpan rs = none ↔ ∀ j m, g ≤ m → ¬ R j m := by
  rw [longestSpan_eq_argmax, List.argmax_eq_none]
  constructor
  · rintro rfl j m hm hR
    obtain ⟨s, hs, -⟩ := h.inside j m hm hR
    cases hs
  · exact fun hno => List.eq_nil_iff_forall_not_mem.2 fun s hs => hno _ _ (h.run s hs).1 (h.run s hs).2

theorem exists_span_of_lt {rs : List (α × Nat)} {i k : Nat} (hi : i ≤ k) (hk : k < i + (expandRuns rs).length) :
    ∃ s ∈ placeRuns rs i, s.start ≤ k ∧ k < s.stop := by
  induction rs generalizing i with
  | nil => simp [expandRuns] at hk; omega
  | cons r rs ih =>
    rw [expandRuns_cons, List.length_append, List.length_replicate] at hk
    obtain hlt | hge := lt_or_ge k (i + r.2)
    · exact ⟨_, List.mem_cons_self, hi, hlt⟩
    · obtain ⟨s, hs, hin⟩ := ih hge (by omega)
      exact ⟨s, List.mem_cons_of_mem _ hs, hin⟩

theorem MaximalRun.runAt {l : List α} {v : α} {a b : Nat} (h : MaximalRun l v a b) : RunAt l v a (b - a) := by
  have hlt := h.lt
  have := (List.getElem?_eq_some_iff.1 (h.all (b - 1) (by omega) (by omega))).1
  exact ⟨by omega, fun k h1 h2 => h.all k h1 (by omega)⟩

variable [DecidableEq α]

theorem start_le_of_idxOf_le {rs : List (Span α)} (hord : rs.Pairwise fun s s' => s.start ≤ s'.start) {s s' : Span α}
    (hs : s ∈ rs) (hs' : s' ∈ rs) (hle : rs.idxOf s ≤ rs.idxOf s') : s.start ≤ s'.start := by
  obtain heq | hlt := hle.eq_or_lt
  · rw [(List.idxOf_inj hs).1 heq]
  · have h := List.pairwise_iff_getElem.1 hord _ _ (List.idxOf_lt_length_iff.2 hs) (List.idxOf_lt_length_iff.2 hs') hlt
    rwa [List.getElem_idxOf, List.getElem_idxOf] at h

section Places
variable {rs : List (Span α)} {g : Nat} {R : Nat → Nat → Prop} (h : PlacesRuns rs g R) (hpos : 0 < g)
include h hpos

/-- The longest place is the first of the longest runs. -/
theorem first_of_longestSpan {s : Span α} (hs : longestSpan rs = some s) :
    g ≤ s.stop - s.start ∧ R s.start (s.stop - s.start)
      ∧ ∀ j m, R j m → m ≤ s.stop - s.start ∧ (m = s.stop - s.start → s.start ≤ j) := by
  rw [longestSpan_eq_argmax] at hs
  obtain ⟨hmem, hmax, hfirst⟩ := List.mem_argmax_iff.1 hs
  obtain ⟨hlong, hrun⟩ := h.run s hmem
  refine ⟨hlong, hrun, fun j m hR => ?_⟩
  obtain hlt | hm := lt_or_ge m g
  · omega
  · obtain ⟨s', hs', hstart, hstop⟩ := h.inside j m hm hR
    have hle := hmax s' hs'
    refine ⟨by omega, fun heq => ?_⟩
    exact (start_le_of_idxOf_le h.ordered hmem hs' (hfirst s' hs' (by omega))).trans hstart

theorem exists_longestSpan_start_iff {i : Nat} :
    (∃ s, longestSpan rs = some s ∧ s.start = i) ↔
      ∃ n, g ≤ n ∧ R i n ∧ ∀ j m, R j m → m ≤ n ∧ (m = n → i ≤ j) := by
  constructor
  · rintro ⟨s, hs, rfl⟩
    exact ⟨_, first_of_longestSpan h hpos hs⟩
  · rintro ⟨n, hn, hR, hfirst⟩
    obtain ⟨s, hs⟩ := Option.ne_none_iff_exists'.1 fun hnone => (longestSpan_eq_none_iff h).1 hnone i n hn hR
    obtain ⟨-, hR', hfirst'⟩ := first_of_longestSpan h hpos hs
    obtain ⟨hle, heq⟩ := hfirst _ _ hR'
    obtain ⟨hle', heq'⟩ := hfirst' _ _ hR
    have hlen := le_antisymm hle hle'
    exact ⟨s, hs, le_antisymm (heq' hlen.symm) (heq hlen)⟩

end Places

/-! ### Maximal runs as places -/

/-- A run of one element lies inside a maximal run of it. -/
theorem exists_span_of_runAt {l : List α} {v : α} {j m : Nat} (hm : 0 < m) (h : RunAt l v j m) :
    ∃ s ∈ spansOf l, s.val = v ∧ s.start ≤ j ∧ j + m ≤ s.stop := by
  obtain ⟨hle, hall⟩ := h
  obtain ⟨s, hs, hstart, hstop⟩ := exists_span_of_lt (rs := runsOf l) (i := 0) (k := j) (Nat.zero_le j)
    (by rw [expandRuns_runsOf]; omega)
  have hrun := mem_spansOf_iff.1 hs
  obtain rfl : s.val = v := Option.some.inj ((hrun.all j hstart hstop).symm.trans (hall j le_rfl (by omega)))
  exact ⟨s, hs, rfl, hstart, Nat.not_lt.1 fun hlt => hrun.after (hall _ hstop.le hlt)⟩

theorem spansOf_ordered (l : List α) (p : Span α → Bool) :
    ((spansOf l).filter p).Pairwise fun s s' => s.start ≤ s'.start := by
  refine ((placeRuns_pairwise (runsOf l) 0).imp_of_mem fun hs _ hle => ?_).filter p
  exact (mem_spansOf_iff.1 hs).lt.le.trans hle

/-- The maximal runs of one element (44_neighbour_units.md R218). -/
theorem placesRuns_val (l : List α) (v : α) {p : Span α → Bool} (hp : ∀ s, p s = true ↔ s.val = v) :
    PlacesRuns ((spansOf l).filter p) 1 (RunAt l v) where
  ordered := spansOf_ordered l p
  run s hs := by
    obtain ⟨hs, hv⟩ := List.mem_filter.1 hs
    have hrun := mem_spansOf_iff.1 hs
    rw [(hp s).1 hv] at hrun
    exact ⟨Nat.sub_pos_of_lt hrun.lt, hrun.runAt⟩
  inside j m hm h := by
    obtain ⟨s, hs, hv, hin⟩ := exists_span_of_runAt hm h
    exact ⟨s, List.mem_filter.2 ⟨hs, (hp s).2 hv⟩, hin⟩

/-- The maximal runs of any element, two long or longer (44_neighbour_units.md R217). -/
theorem placesRuns_repeated (l : List α) :
    PlacesRuns ((spansOf l).filter fun r => decide (2 ≤ r.stop - r.start)) 2 fun j m => ∃ b, RunAt l b j m where
  ordered := spansOf_ordered l _
  run s hs := by
    obtain ⟨hs, hlong⟩ := List.mem_filter.1 hs
    exact ⟨of_decide_eq_true hlong, s.val, (mem_spansOf_iff.1 hs).runAt⟩
  inside j m hm h := by
    obtain ⟨b, h⟩ := h
    obtain ⟨s, hs, -, hstart, hstop⟩ := exists_span_of_runAt (Nat.lt_of_lt_of_le Nat.zero_lt_two hm) h
    exact ⟨s, List.mem_filter.2 ⟨hs, decide_eq_true (by omega)⟩, hstart, hstop⟩

end Longest

/-! ### The three searches -/

theorem badFlags_length (W : List Byte) : (badFlags W).length = W.length := by
  rw [badFlags, List.length_zipWith, List.length_cons]
  omega

/-- A run of bad-GCR positions is a run of set flags (44_neighbour_units.md R218). -/
theorem runAt_badFlags_iff {W : List Byte} {j m : Nat} :
    RunAt (badFlags W) true j m ↔ j + m ≤ W.length ∧ ∀ p, j ≤ p → p < j + m → BadAt W p := by
  rw [RunAt, badFlags_length]
  refine and_congr_right fun hle => forall₃_congr fun p _ hp => ?_
  rw [badFlags_getElem (by omega), Option.some_inj, badGcr_iff]

theorem runAt_one_iff {α : Type} {l : List α} {v : α} {i : Nat} : RunAt l v i 1 ↔ l[i]? = some v := by
  constructor
  · exact fun h => h.2 i le_rfl (Nat.lt_succ_self i)
  · refine fun h => ⟨(List.getElem?_eq_some_iff.1 h).1, fun k h1 h2 => ?_⟩
    obtain rfl : k = i := by omega
    exact h

/-- The first elements of a run are a run. -/
theorem RunAt.shorten {α : Type} {l : List α} {v : α} {i m n : Nat} (h : RunAt l v i n) (hm : m ≤ n) : RunAt l v i m :=
  ⟨by have := h.1; omega, fun k h1 h2 => h.2 k h1 (by omega)⟩

theorem longestSpan_val_eq_none_iff {α : Type} [DecidableEq α] {l : List α} {v : α} {p : Span α → Bool}
    (hp : ∀ s, p s = true ↔ s.val = v) : longestSpan ((spansOf l).filter p) = none ↔ v ∉ l := by
  rw [longestSpan_eq_none_iff (placesRuns_val l v hp), List.mem_iff_getElem?, not_exists]
  exact forall_congr' fun i => ⟨fun h h1 => h 1 le_rfl (runAt_one_iff.2 h1),
    fun h m hm hrun => h (runAt_one_iff.1 (hrun.shorten hm))⟩

/-- Settles O39: the spans the searches choose from place the runs of their kind (`placesRuns_repeated`,
`placesRuns_val`). -/
theorem longestRunsAreTheFirstLongest : Obligations.LongestRunsAreTheFirstLongest := by
  intro W
  have hsync : ∀ s : Span Byte, (s.val == syncByte) = true ↔ s.val = 0xFF := fun s => beq_iff_eq
  have hbad : ∀ s : Span Bool, s.val = true ↔ s.val = true := fun s => Iff.rfl
  refine ⟨fun o => ?_, ?_, fun i => ?_, ?_, fun i => ?_, ?_⟩
  · rw [autoGapSearch, Option.map_eq_some_iff]
    have hiff (i : Nat) := exists_longestSpan_start_iff (placesRuns_repeated W) Nat.zero_lt_two (i := i)
    constructor
    · rintro ⟨s, hs, rfl⟩
      obtain ⟨n, hn, ⟨b, hb⟩, hfirst⟩ := (hiff s.start).1 ⟨s, hs, rfl⟩
      exact ⟨s.start, n, b, hn, hb, rfl, fun j m b' h => hfirst j m ⟨b', h⟩⟩
    · rintro ⟨i, n, b, hn, hb, rfl, hfirst⟩
      obtain ⟨s, hs, rfl⟩ := (hiff i).2 ⟨n, hn, ⟨b, hb⟩, fun j m ⟨b', h⟩ => hfirst j m b' h⟩
      exact ⟨s, hs, rfl⟩
  · rw [autoGapSearch, Option.map_eq_none_iff, longestSpan_eq_none_iff (placesRuns_repeated W)]
    exact ⟨fun h i b hrun => h i 2 le_rfl ⟨b, hrun⟩, fun h j m hm ⟨b, hrun⟩ => h j b (hrun.shorten hm)⟩
  · rw [longSyncSearch, Option.map_eq_some_iff]
    exact exists_longestSpan_start_iff (placesRuns_val W 0xFF hsync) Nat.zero_lt_one
  · rw [longSyncSearch, Option.map_eq_none_iff]
    exact longestSpan_val_eq_none_iff hsync
  · rw [badRunSearch, Option.map_eq_some_iff, exists_longestSpan_start_iff (placesRuns_val _ true hbad) Nat.zero_lt_one]
    simp only [runAt_badFlags_iff, and_imp, and_assoc, Nat.succ_le_iff]
  · rw [badRunSearch, Option.map_eq_none_iff, longestSpan_eq_none_iff (placesRuns_val _ true hbad)]
    constructor
    · intro h p hp hat
      refine h p 1 le_rfl (runAt_badFlags_iff.2 ⟨hp, fun q h1 h2 => ?_⟩)
      obtain rfl : q = p := by omega
      exact hat
    · rintro h j m hm hrun
      obtain ⟨hle, hall⟩ := runAt_badFlags_iff.1 hrun
      exact h j (by omega) (hall j le_rfl (by omega))

end Sys2Proof.Machine
end

section
/-! The first failing check of every command (60_exceptions.md R242 to R247): the fault code of each rule, check by check,
is the code of `expectedFault`. -/

namespace Sys2Proof.Machine

/-- The fault code a rule answers with, 0 where it completes (60_exceptions.md R241). -/
def faultOf : Except FaultCode State → Byte
  | .ok _ => 0
  | .error c => faultNumber c

section FaultOf
variable {r : Except FaultCode State}

/-- A check that comes before the rest of a rule. -/
theorem faultOf_check (c : FaultCode) {P : Prop} [Decidable P] {n : Byte} (hfail : P → r = .error c)
    (hpass : ¬ P → faultOf r = n) : faultOf r = if P then faultNumber c else n := by
  split
  next h => rw [hfail h, faultOf]
  next h => exact hpass h

/-- The read that comes last: with its bytes the rule completes. -/
theorem faultOf_read {β : Type} {x : Option β} [Decidable (x = none)] (hnone : x = none → r = .error .uninit)
    (hsome : ∀ l, x = some l → ∃ t, r = .ok t) : faultOf r = if x = none then 0x04 else 0 := by
  refine faultOf_check .uninit hnone fun h => ?_
  obtain ⟨l, hl⟩ := Option.ne_none_iff_exists'.1 h
  obtain ⟨t, rfl⟩ := hsome l hl
  rfl

end FaultOf

variable {s : State}

/-! ### The codec -/

theorem faultOf_encsec : faultOf (ruleEncsec params s) = expectedFault .encsec s := by
  have hlen : sectorImgLen params = 354 := rfl
  refine faultOf_check .range (fun h => ruleEncsec_of_outside (by rwa [hlen])) fun hfits => ?_
  replace hfits : s.pos.toNat + sectorImgLen params ≤ tbCap := hlen ▸ Nat.not_lt.1 hfits
  refine faultOf_check .badArg (fun h => ruleEncsec_of_no_code hfits (sectorErrorOf_eq_none h)) fun h => ?_
  obtain ⟨inj, hinj⟩ := mem_sectorNumbers_iff.1 (not_not.1 h)
  have hcode : sectorErrorOf params s.inj = some inj := hinj ▸ sectorErrorOf_defaultErrNumber inj
  exact faultOf_read (ruleEncsec_of_no_payload hfits hcode) fun pay hpay =>
    ⟨_, ruleEncsec_of_payload (c := params) rfl hfits hcode hpay⟩

theorem faultOf_decsec : faultOf (ruleDecsec params s) = expectedFault .decsec s := by
  refine faultOf_check .range (fun h => ?_) fun h => ?_
  · by_cases h0 : s.cycl = 0
    · exact if_pos h0
    · exact ruleDecsec_of_window_fault h0 (readWindow_of_outside (h.resolve_left h0))
  · obtain ⟨h0, hfits⟩ := not_or.1 h
    replace hfits := Nat.not_lt.1 hfits
    exact faultOf_read (fun hu => ruleDecsec_of_window_fault h0 (readWindow_of_unwritten hfits hu)) fun C hC =>
      ⟨_, ruleDecsec_of_written h0 hfits hC rfl⟩

/-! ### The scanner -/

theorem faultOf_searchCommand (find : List Byte → Option Nat) :
    faultOf (searchCommand find s) = expectedFault .fsync s := by
  rw [expectedFault, scanned_eq]
  refine faultOf_check .range searchCommand_of_outside fun h => ?_
  replace h := not_not.1 h
  refine faultOf_read (searchCommand_of_unwritten h) fun l hl => ?_
  cases hfind : find l with
  | some q => exact ⟨_, searchCommand_of_some h hl hfind⟩
  | none => exact ⟨_, searchCommand_of_none h hl hfind⟩

theorem faultOf_badgcr (hm : BufsWf s) : faultOf (ruleBadgcr s) = expectedFault .badgcr s := by
  rw [expectedFault, scanned_eq, ← prevPos_toNat]
  refine faultOf_check .range ruleBadgcr_of_outside fun h => ?_
  replace h := not_not.1 h
  obtain ⟨hsorted, -⟩ := hm s.selected
  refine faultOf_check .uninit (fun hu => ruleBadgcr_of_unwritten h hsorted hu.symm) fun hw => ?_
  obtain ⟨hcur, hprev⟩ := not_or.1 hw
  obtain ⟨cur, hcur⟩ := Option.ne_none_iff_exists'.1 hcur
  obtain ⟨prev, hprev⟩ := Option.ne_none_iff_exists'.1 hprev
  rw [ruleBadgcr_of_written h hsorted hprev hcur]
  rfl

theorem faultOf_syncflg : faultOf (ruleSyncflg params s) = expectedFault .syncflg s := by
  rw [expectedFault, scanned_eq]
  refine faultOf_check .range (fun h => if_pos h) fun h => ?_
  replace h := Nat.not_lt.1 h
  exact faultOf_read (ruleSyncflg_of_unwritten h) fun l hl => ⟨_, ruleSyncflg_of_written h hl⟩

/-! ### The Cycle Detector -/

theorem faultOf_cycdet : faultOf (ruleCycdet s) = expectedFault .cycdet s := by
  rw [expectedFault]
  split
  next mn mx a hmn hmx ha =>
    refine faultOf_check .range (ruleCycdet_of_outside hmn hmx ha) fun hlen => ?_
    replace hlen := Nat.not_lt.1 hlen
    refine faultOf_check .badArg (ruleCycdet_of_badArg hmn hmx ha hlen) fun h => ?_
    obtain ⟨hle, hgap⟩ := not_or.1 h
    exact faultOf_read (ruleCycdet_of_unwritten hmn hmx ha hlen hle hgap) fun l hl =>
      ⟨_, ruleCycdet_of_written hmn hmx ha hlen hle hgap hl⟩
  next hunset =>
    rw [ruleCycdet]
    split
    next mn mx a hmn hmx ha => exact absurd ha (hunset mn mx a hmn hmx)
    next => rfl

/-! ### The Bit Aligner -/

/-- A rule that reads the cycle window and then completes (43_bit_aligner.md R192, R195). -/
theorem faultOf_window {f : List Byte → Except FaultCode State}
    (hf : ∀ l, s.cycs.toNat + s.cycl.toNat ≤ 8192 → readBytes s.tb s.cycs.toNat s.cycl.toNat = some l → ∃ t, f l = .ok t) :
    faultOf (readWindow s >>= f) = expectedFault .alignbs s := by
  refine faultOf_check .range (fun h => bind_error_iff.2 (.inl (readWindow_of_outside h))) fun h => ?_
  replace h := Nat.not_lt.1 h
  refine faultOf_read (fun hu => bind_error_iff.2 (.inl (readWindow_of_unwritten h hu))) fun l hl => ?_
  obtain ⟨t, ht⟩ := hf l h hl
  exact ⟨t, bind_ok_iff.2 ⟨l, readWindow_of_written h hl, ht⟩⟩

theorem faultOf_isshift : faultOf (ruleIsshift s) = expectedFault .isshift s := faultOf_window fun _ _ _ => ⟨_, rfl⟩

theorem faultOf_alignbs : faultOf (ruleAlignbs s) = expectedFault .alignbs s := by
  refine faultOf_window fun l h hl => ?_
  obtain ⟨hfits, -⟩ := alignBits_fits (x := bitString l)
    (by rw [bitString_length, readBytes_length hl]; simp only [tbCap]; omega)
  exact ⟨_, bind_ok_iff.2 ⟨_, memWrite_ok_iff.2 ⟨.inr (by rwa [packBits_length, Nat.zero_add]), rfl⟩, rfl⟩⟩

/-! ### The Neighbour Units -/

theorem faultOf_alignsel : faultOf (ruleAlignsel params s) = expectedFault .alignsel s := by
  refine faultOf_check .range ruleAlignsel_of_outside fun hrange => ?_
  refine faultOf_check .unsup (fun h => ?_) fun hsig => faultOf_check .badArg (fun h => ?_) fun h => ?_
  · obtain ⟨k, hk⟩ := exists_signature_of_mem h
    exact ruleAlignsel_of_matcherAbsent hrange hk (matcherAbsent_params k)
  · refine ruleAlignsel_of_badArg hrange (overrideOf_eq_none fun hmem => ?_)
    obtain hmem | hmem := List.mem_append.1 (show _ ∈ [0x00, 0x01, 0x02, 0x03, 0x04, 0x05, 0x06] ++ _ from hmem)
    · exact h hmem
    · exact hsig hmem
  · obtain ⟨v, hv, hnosig⟩ := exists_override_of_mem (not_not.1 h)
    have habsent : matcherAbsent params v = false := matcherAbsent_eq_false hnosig
    exact faultOf_read (ruleAlignsel_of_unwritten hrange hv habsent) fun C hC =>
      ⟨_, ruleAlignsel_of_written hrange hv habsent hC rfl⟩

theorem faultOf_reduceCommand {f : List Byte → List Byte} (hf : ∀ l, (f l).Sublist l) :
    faultOf (reduceCommand f s) = expectedFault .reduce s := by
  refine faultOf_check .range (fun h => if_pos h) fun h => ?_
  replace h := Nat.not_lt.1 h
  exact faultOf_read (reduceCommand_of_unwritten h) fun l hl => ⟨_, reduceCommand_of_written h hl (hf l).length_le⟩

/-! ### Every command -/

/-- The fault of every rule (60_exceptions.md R242 to R247). -/
theorem faultOf_ruleUnder (hm : BufsWf s) (i : Instr) : faultOf (ruleUnder params i s) = expectedFault i s := by
  cases i with
  | nop | enc4 | dec4 | sreset => rfl
  | encsec => exact faultOf_encsec
  | decsec => exact faultOf_decsec
  | fsync | fhdr => exact faultOf_searchCommand _
  | badgcr => exact faultOf_badgcr hm
  | syncflg => exact faultOf_syncflg
  | cycdet => exact faultOf_cycdet
  | isshift => exact faultOf_isshift
  | alignbs => exact faultOf_alignbs
  | alignsel => exact faultOf_alignsel
  | redrun => exact faultOf_reduceCommand fun l => (reduceRuns_spec l _ _ _).2.1
  | redgap => exact faultOf_reduceCommand fun l => (reduceGaps_spec l _).2.1
  | reduce => exact faultOf_reduceCommand fun l => (reduceTrack_spec l _ _).1

/-- The checks read no flag. -/
theorem expectedFault_setFlag (i : Instr) (f : Flag) (v : Bool) : expectedFault i (s.setFlag f v) = expectedFault i s := by
  cases i <;> rfl

/-- Settles O43: a rule that faults does so with the code of `expectedFault` (`faultOf_ruleUnder`), which is not 0, and one
that completes has the code 0. -/
theorem firstFailingCheckIsReported : Obligations.FirstFailingCheckIsReported := by
  intro i s hs hinv hi
  obtain ⟨hbufs, -⟩ := (inv_iff s).1 hinv
  have hcode : faultOf (ruleUnder params i (s.setFlag .done false)) = expectedFault i s :=
    (faultOf_ruleUnder (fun b => (State.setFlag_mem s .done false b).symm ▸ hbufs b) i).trans (expectedFault_setFlag i _ _)
  obtain ⟨hs', -⟩ | ⟨-, c, hc, e⟩ | ⟨-, u, hu, e⟩ := exec_cases hi s
  · simp [hs] at hs'
  · rw [hc, faultOf] at hcode
    exact ⟨fun _ => hcode ▸ e, fun h0 => absurd (hcode.trans h0) (faultNumber_ne_zero c)⟩
  · rw [hu, faultOf] at hcode
    exact ⟨fun h => absurd hcode.symm h, fun _ =>
      ⟨_, e, flag_fault_of_completed hi hs hu, by rw [State.flag_setFlag, if_pos rfl]⟩⟩

end Sys2Proof.Machine
end
